-- ==== Sys2Proof/Syntax.lean ====
section
/-! DEFINITION. The block's instruction set: its eight commands (spec/30_encoding.md R82). -/

namespace Sys2Proof

/-- The eight commands, one constructor per row of spec/opcode_table.json.
No command has an operand field: every operand is an implicit register (R81, R86). -/
inductive Instr where
  /-- Completes with no effect (R92). -/
  | nop
  /-- S[0..t) <- expand(key, r) (R128). -/
  | expand
  /-- (A, B) <- encrypt((A, B), key, r) (R142). -/
  | encrypt
  /-- (A, B) <- decrypt((A, B), key, r) (R143). -/
  | decrypt
  /-- A <- A + B mod 2^W (R105). -/
  | add
  /-- A <- A - B mod 2^W (R106). -/
  | sub
  /-- A <- rotate_left(A, B) (R112). -/
  | rotl
  /-- A <- rotate_right(A, B) (R113). -/
  | rotr
deriving DecidableEq, Repr

end Sys2Proof
end

