-- ==== Sys2Proof/Config.lean ====
section
/-! DEFINITION. The parameters of the block (spec/00_scope.md R6 to R9) and the free values the spec leaves open
(spec/93_implementation_defined.md U1, U2, U4, U6, U17). Nothing here changes while the machine runs. -/

namespace Sys2Proof

/-- The legal word widths W of an RC5 block, fixed when it is built (R6). -/
inductive Width where
  | w8
  | w16
  | w32
  | w64
  | w128
deriving DecidableEq, Repr

/-- W, in bits (R6). -/
def Width.bits : Width → Nat
  | .w8 => 8
  | .w16 => 16
  | .w32 => 32
  | .w64 => 64
  | .w128 => 128

/-- u = W/8, the word width in bytes (R7). -/
def Width.bytes (W : Width) : Nat := W.bits / 8

/-- R_MAX, the largest round count (R8). -/
def Config.roundsMax : Nat := 255

/-- B_MAX, the largest key length in bytes and the number of KEY entries (R8). -/
def Config.keyMax : Nat := 255

/-- T_MAX, the number of S entries (R8). -/
def Config.tableMax : Nat := 512

/-- L_MAX, the number of L entries: max(1, ceil(8·B_MAX/W)) (R8). -/
def Width.scratchMax (W : Width) : Nat := max 1 ((8 * Config.keyMax + (W.bits - 1)) / W.bits)

/-- D, the width of the host port's data in bits: max(32, W) (R8, R41). -/
def Width.portBits (W : Width) : Nat := max 32 W.bits

/-! The free values. None has a body, so nothing can be proved about one: a statement holds whatever they are.
Each is applied to a draw number, a counter in State that moves on, so that separate draws are independent. -/

/-- KEY[k] after the reset that took draw number `draw`, until the host writes it (U2; notes/assumptions/3.md). -/
opaque Config.keyAtReset (draw k : Nat) : BitVec 8

/-- S[k] after the reset that took draw number `draw`, until a command writes it (U4, U17; notes/assumptions/3.md). -/
opaque Config.subkeyAtReset (W : Width) (draw k : Nat) : BitVec W.bits

/-- L[k] after the reset or the key expansion that took draw number `draw` (R32, U6; notes/assumptions/4.md). -/
opaque Config.scratchLeft (W : Width) (draw k : Nat) : BitVec W.bits

/-- What a read of TLEN, A, B or an S entry returns while BUSY = 1 (R46, U1; notes/assumptions/5.md). -/
opaque Config.busyRead (W : Width) (draw : Nat) : BitVec W.portBits

/-- The value of a host-side name that a script uses before any RD has bound it (notes/assumptions/9.md). -/
opaque Config.unboundName (W : Width) (name : Nat) : BitVec W.portBits

end Sys2Proof
end

