-- ==== Sys2Proof/Word.lean ====
section
/-! DEFINITION. The data types of the block: the Word, the byte and the port's data (spec/00_scope.md R11, R15). -/

namespace Sys2Proof

/-- An unsigned W-bit integer, the block's only data type (R11, R18, R100). -/
abbrev Word (W : Width) := BitVec W.bits

/-- An unsigned integer in [0, 256) (R11). -/
abbrev Byte := BitVec 8

/-- The D-bit value one host transaction moves (R41). -/
abbrev PortData (W : Width) := BitVec W.portBits

/-- A 10-bit register address (R40). -/
abbrev PortAddr := BitVec 10

/-- A 32-bit command word written to CMD (R80). -/
abbrev CmdWord := BitVec 32

/-- A block of plaintext or ciphertext: the ordered pair of Words (A, B) (R19). -/
abbrev Pair (W : Width) := Word W × Word W

end Sys2Proof
end

