-- ==== Sys2Proof/Decode.lean ====
section
/-! DEFINITION. The command word's decoder, total on all 2^32 words and refusing by name, and after it the encoder
(spec/30_encoding.md R80 to R85). -/

namespace Sys2Proof

/-- Why a word is no command (R83). -/
inductive DecodeError where
  /-- CMD[31:4], which holds `rsv`, is not 0. -/
  | reservedBits (rsv : BitVec 28)
  /-- OPC, which is `opc`, is 0x8 to 0xF. -/
  | reservedOpcode (opc : BitVec 4)
deriving DecidableEq, Repr

/-- OPC, bits [3:0] of a command word (R80). -/
def opcField (w : CmdWord) : BitVec 4 := w.extractLsb' 0 4

/-- RSV, bits [31:4] of a command word (R80). -/
def rsvField (w : CmdWord) : BitVec 28 := w.extractLsb' 4 28

/-- The command an opcode stands for, by the opcode map (R82). -/
def decodeOpcode (opc : BitVec 4) : Option Instr :=
  match opc.toNat with
  | 0 => some .nop
  | 1 => some .expand
  | 2 => some .encrypt
  | 3 => some .decrypt
  | 4 => some .add
  | 5 => some .sub
  | 6 => some .rotl
  | 7 => some .rotr
  | _ => none

/-- The command a word stands for, or why it is illegal (R82, R83). -/
def decode (w : CmdWord) : Except DecodeError Instr :=
  if rsvField w ≠ 0 then .error (.reservedBits (rsvField w))
  else
    match decodeOpcode (opcField w) with
    | some i => .ok i
    | none => .error (.reservedOpcode (opcField w))

/-- The decoder's answer for a word of spec/opcode_table.json given as a number: a command is one 32-bit word (R85), and
the port moves it whole, so there is no byte order to lay it out in (R55). -/
def decodeTableWord (nbits w : Nat) : Option Instr :=
  if w % 2 ^ nbits < 2 ^ 32 then
    match decode (BitVec.ofNat 32 (w % 2 ^ nbits)) with
    | .ok i => some i
    | .error _ => none
  else none

/-- The opcode of a command (R82). -/
def opcode : Instr → BitVec 4
  | .nop => 0x0
  | .expand => 0x1
  | .encrypt => 0x2
  | .decrypt => 0x3
  | .add => 0x4
  | .sub => 0x5
  | .rotl => 0x6
  | .rotr => 0x7

/-- The word of a command: its opcode below 28 zero bits (R80, R82). -/
def encode (i : Instr) : CmdWord := (0#28) ++ opcode i

end Sys2Proof
end

