-- ==== Sys2Proof/Machine/Script.lean ====
section
/-! DEFINITION. The types of a host script (spec/30_encoding.md R87 to R89): what an assembler reads, and the lines the
host runs. Each line makes at most one port transaction. -/

namespace Sys2Proof.Machine

/-- A host-side name, numbered (R87). -/
abbrev HostName := Nat

/-- A script label, numbered (R87). -/
abbrev Label := Nat

/-- A `<target>` of a script: a register name of R89, a table entry, or a raw address `@0x…` (R87). -/
inductive Target where
  | id
  | cmd
  | status
  | rounds
  | keylen
  | tlen
  | a
  | b
  | key (k : Nat)
  | s (k : Nat)
  | raw (addr : PortAddr)
deriving DecidableEq, Repr

/-- What EXPECT compares a name with. R87 has a number there, and program P4 of 95_test_vectors.md writes a name; both are
admitted. DEDUCED (notes/assumptions/14.md). -/
inductive ExpectValue (W : Width) where
  | number (value : PortData W)
  | name (name : HostName)
deriving DecidableEq, Repr

/-- A line of a host script as it is written (R87), the pseudo-instructions of R88 among them. Every number is one that a
port transaction can carry, of D bits: R87 and R88 bound none. DESIGN CHOICE (notes/assumptions/15.md). -/
inductive Stmt (W : Width) where
  /-- `WR <target>, <value>`. -/
  | wr (target : Target) (value : PortData W)
  /-- `RD <target>`, or `RD <target> -> <name>` when a name is given. -/
  | rd (target : Target) (name : Option HostName)
  /-- A bare command mnemonic. -/
  | command (i : Instr)
  /-- `name:`. -/
  | label (l : Label)
  /-- `IF <name>[<bit>] = <0|1> GOTO <label>`. A bit past the D bits of a value is 0. DESIGN CHOICE
  (notes/assumptions/15.md). -/
  | ifGoto (name : HostName) (bit : Nat) (value : Bool) (l : Label)
  /-- `EXPECT <name> = <value>`. -/
  | expect (name : HostName) (value : ExpectValue W)
  /-- `WAIT`. -/
  | wait
  /-- `LOADKEY k0, k1, …`. Each k is a `<value>` of WR, and the write to KEY keeps its low byte (R52). DESIGN CHOICE
  (notes/assumptions/15.md). -/
  | loadKey (values : List (PortData W))
  /-- `RUN <COMMAND>`. -/
  | run (i : Instr)
  /-- `CLEAR`. -/
  | clear
deriving DecidableEq, Repr

/-- A line of an assembled script: one port transaction, or one host-side operation that makes none (R87).
A branch target is the number of a line. -/
inductive HostLine (W : Width) where
  | write (addr : PortAddr) (data : PortData W)
  | read (addr : PortAddr) (name : Option HostName)
  | branch (name : HostName) (bit : Nat) (value : Bool) (target : Nat)
  | expect (name : HostName) (value : ExpectValue W)
deriving DecidableEq, Repr

end Sys2Proof.Machine
end

