-- ==== Sys2Proof/Machine/State.lean ====
section
/-! DEFINITION. The state of the machine (spec/10_state.md R20), of the host that drives it, and of the order in which
its agents take their turns (spec/20_memory.md R59), and the state after reset (spec/70_reset_and_hazards.md R171). -/

namespace Sys2Proof.Machine

/-- The error codes that can be recorded (R151). -/
inductive ErrCode where
  /-- 0x0: no error since ERR was last 0. -/
  | none
  /-- 0x1: a word written to CMD while idle is no command. -/
  | illegalCmd
  /-- 0x2: a write to a guarded register while BUSY = 1. -/
  | busyWrite
  /-- 0x3: a write to an unwritable or reserved address. -/
  | access
deriving DecidableEq, Repr

/-- The fields of STATUS (R23). The reserved bits hold nothing. -/
structure Status where
  busy : Bool
  done : Bool
  err : Bool
  errCode : ErrCode
deriving DecidableEq, Repr

/-- The block itself at word width W: R20's list, less ID, which is a constant of the width, and CMD, which has no storage.
ROUNDS, KEYLEN and TLEN are held as their fields, since their reserved bits hold nothing (R38). -/
structure Chip (W : Width) where
  /-- STATUS (R23). -/
  status : Status
  /-- ROUNDS[7:0], which is r (R25). -/
  rounds : BitVec 8
  /-- KEYLEN[7:0], which is b (R26). -/
  keylen : BitVec 8
  /-- TLEN[9:0], which is t of the last completed expansion (R27). -/
  tlen : BitVec 10
  /-- A (R28). -/
  a : Word W
  /-- B (R29). -/
  b : Word W
  /-- KEY[0] to KEY[254] (R30). -/
  key : Vector Byte 255
  /-- S[0] to S[511] (R31). -/
  s : Vector (Word W) 512
  /-- L, the hidden scratch array (R32). -/
  l : Vector (Word W) W.scratchMax
  /-- PEND_OP, the hidden latch of the pending command's opcode (R33). -/
  pendOp : BitVec 4
deriving DecidableEq, Repr

/-- The host: the script it runs, the number of its next line, and the values it has bound (R87, R182). -/
structure HostSide (W : Width) where
  script : List (HostLine W)
  line : Nat
  /-- The values RD bound, newest first. -/
  names : List (HostName × PortData W)
  /-- How many EXPECT lines found another value. -/
  failedExpects : Nat
deriving DecidableEq, Repr

/-- Who moves in one step of the total order of R59. -/
inductive Turn where
  /-- The host runs the next line of its script. -/
  | host
  /-- The engine completes the pending command, if there is one. -/
  | engine
  /-- The platform asserts the reset input (R170). -/
  | reset
deriving DecidableEq, Repr

/-- The whole machine. -/
structure State where
  /-- W, fixed when the block is built; no step changes it (R6, R108). -/
  width : Width
  /-- The block. -/
  chip : Chip width
  /-- The host. -/
  host : HostSide width
  /-- The turns still to be taken, in order. It is data, so every order R59 admits is some state's list. -/
  turns : List Turn
  /-- The model's own: how many free values have been drawn. -/
  draws : Nat
deriving DecidableEq, Repr

/-- Why the machine stops with a fault. The block itself has no trap and no stop (R150). -/
inductive Fault where
  /-- Raised by the engine's turn when BUSY = 1 and PEND_OP is 0x8 to 0xF, which the spec says never happens: acceptance
  latches only legal opcodes (R96). Safe: no run from reset meets it. -/
  | reservedOpcodePending
deriving DecidableEq, Repr

/-- Why the machine has no meaning for a command. -/
inductive Refusal where
  /-- Raised by exec for a command that has no meaning yet; every command has one. Safe. -/
  | notModelled (mnemonic : String)
deriving DecidableEq, Repr

/-- STATUS after reset: 0x00000000 (R171). -/
def Status.atReset : Status := { busy := false, done := false, err := false, errCode := .none }

/-- The block after a reset that takes draw number `draw` (R171). KEY, S and L hold free values (notes/assumptions/3.md and
4.md); PEND_OP holds nothing while BUSY = 0 and is given 0 (notes/assumptions/6.md). -/
def Chip.atReset (W : Width) (draw : Nat) : Chip W where
  status := .atReset
  rounds := 0
  keylen := 0
  tlen := 0
  a := 0
  b := 0
  key := .ofFn fun k => Config.keyAtReset draw k.val
  s := .ofFn fun k => Config.subkeyAtReset W draw k.val
  l := .ofFn fun k => Config.scratchLeft W draw k.val
  pendOp := 0

/-- A host with no script. -/
def HostSide.idle (W : Width) : HostSide W := { script := [], line := 0, names := [], failedExpects := 0 }

/-- The machine right after reset at word width W, with no host script. -/
def State.resetAt (W : Width) : State :=
  { width := W, chip := .atReset W 0, host := .idle W, turns := [], draws := 1 }

/-- The machine right after reset, at the default width W = 32 (R6, R171). -/
def State.reset : State := .resetAt .w32

end Sys2Proof.Machine
end

