-- ==== Sys2Proof/Machine/Flags.lean ====
section
/-! DEFINITION. Every way STATUS is read and changed, other than the recording of an error (Ops.lean): BUSY and DONE through
a command's life (spec/40_command.md R90, R91), the host's write-one-to-clear (spec/20_memory.md R49) and the 32-bit word
the host reads (spec/10_state.md R23). No command has arithmetic flags (R37). -/

namespace Sys2Proof.Machine

/-- The 4-bit code ERRCODE holds (R151). -/
def ErrCode.bits : ErrCode → BitVec 4
  | .none => 0x0
  | .illegalCmd => 0x1
  | .busyWrite => 0x2
  | .access => 0x3

/-- STATUS as the host reads it: bits 31:8 and 3 are reserved and read 0 (R23, R38). -/
def Status.word (st : Status) : BitVec 32 :=
  (0#24) ++ (st.errCode.bits ++ ((0#1) ++ (BitVec.ofBool st.err ++ (BitVec.ofBool st.done ++ BitVec.ofBool st.busy))))

/-- STATUS once a command is accepted (R90). -/
def Status.accepted (st : Status) : Status := { st with done := false, busy := true }

/-- STATUS once the pending command is complete (R91). -/
def Status.completed (st : Status) : Status := { st with busy := false, done := true }

/-- STATUS after the host writes it: bit 1 clears DONE and bit 2 clears ERR and ERRCODE (R49). -/
def Status.written (st : Status) (clearDone clearErr : Bool) : Status :=
  { st with
    done := if clearDone then false else st.done
    err := if clearErr then false else st.err
    errCode := if clearErr then .none else st.errCode }

end Sys2Proof.Machine
end

