-- ==== Sys2Proof/Machine/Ops.lean ====
section
/-! DEFINITION. The operations every other file is written over: Word arithmetic and rotation, the constant ROM, and the
recording of an error, which is what this block has in place of an exception. -/

namespace Sys2Proof.Machine

variable {W : Width}

/-- `a + b` on Words, modulo 2^W; the carry is recorded nowhere (R101). -/
def wrappingAdd {w : Nat} (a b : BitVec w) : BitVec w := a + b

/-- `a - b` on Words, modulo 2^W; the borrow is recorded nowhere (R102). -/
def wrappingSub {w : Nat} (a b : BitVec w) : BitVec w := a - b

/-- Left rotation by `y mod W` (R110). -/
def rotl {w : Nat} (x : BitVec w) (y : Nat) : BitVec w :=
  let a := y % w
  if a = 0 then x else (x <<< a) ||| (x >>> (w - a))

/-- Right rotation by `y mod W` (R111). -/
def rotr {w : Nat} (x : BitVec w) (y : Nat) : BitVec w :=
  let a := y % w
  if a = 0 then x else (x >>> a) ||| (x <<< (w - a))

/-- `from_u8`: a byte as a Word (R100). -/
def fromU8 (k : Byte) : Word W := k.setWidth W.bits

/-- P_W (R103, R104; 90_conflicts.md C6). -/
def magicP : (W : Width) → Word W
  | .w8 => 0xB7#8
  | .w16 => 0xB7E1#16
  | .w32 => 0xB7E15163#32
  | .w64 => 0xB7E151628AED2A6B#64
  | .w128 => 0xB7E151628AED2A6ABF7158809CF4F3C7#128

/-- Q_W (R103, R104; 90_conflicts.md C6). -/
def magicQ : (W : Width) → Word W
  | .w8 => 0x9F#8
  | .w16 => 0x9E37#16
  | .w32 => 0x9E3779B9#32
  | .w64 => 0x9E3779B97F4A7C15#64
  | .w128 => 0x9E3779B97F4A7C15F39CC0605CEDC835#128

/-- `raise Error(code)`: the first error since ERR was last 0 keeps its code, and nothing else changes (R16, R152). -/
def raiseError (code : ErrCode) (c : Chip W) : Chip W :=
  { c with status := { c.status with err := true, errCode := if c.status.err then c.status.errCode else code } }

end Sys2Proof.Machine
end

