-- ==== Sys2Proof/Machine/Command.lean ====
section
/-! DEFINITION. The life of a command, and NOP (spec/40_command.md R90 to R92). -/

namespace Sys2Proof.Machine

variable {W : Width}

/-- AcceptCommand: an illegal word records ILLEGAL_CMD; a legal one is latched, clears DONE and sets BUSY (R90). -/
def acceptCommand (c : Chip W) (word : CmdWord) : Chip W :=
  match decode word with
  | .error _ => raiseError .illegalCmd c
  | .ok _ => { c with pendOp := opcField word, status := c.status.accepted }

/-- Complete, for a command that leaves the block's other registers as in `c`: BUSY <- 0 and DONE <- 1 (R91). -/
def complete (s : State) (c : Chip s.width) : Host.Outcome State Fault Refusal :=
  .next { s with chip := { c with status := c.status.completed } }

/-- NOP completes with no effect (R92). -/
def execNop (s : State) : Host.Outcome State Fault Refusal := complete s s.chip

end Sys2Proof.Machine
end

