-- ==== Sys2Proof/Machine/Operands.lean ====
section
/-! DEFINITION. The operand forms: the registers a 10-bit address names (spec/20_memory.md R43, R44), and the implicit
operands of the commands (spec/30_encoding.md R86). -/

namespace Sys2Proof.Machine

variable {W : Width}

/-- What an address names (R43). -/
inductive PortReg where
  | id
  | cmd
  | status
  | rounds
  | keylen
  | tlen
  | a
  | b
  | key (k : Fin 255)
  | s (k : Fin 512)
  | reserved
deriving DecidableEq, Repr

/-- The address decode of R44. -/
def portReg (addr : PortAddr) : PortReg :=
  let n := addr.toNat
  if h : 0x200 ≤ n then .s ⟨n - 0x200, by have : n < 2 ^ 10 := addr.isLt; omega⟩
  else if 0x100 ≤ n then
    if h : n - 0x100 < 255 then .key ⟨n - 0x100, h⟩ else .reserved
  else
    match n with
    | 0x000 => .id
    | 0x001 => .cmd
    | 0x002 => .status
    | 0x003 => .rounds
    | 0x004 => .keylen
    | 0x005 => .tlen
    | 0x006 => .a
    | 0x007 => .b
    | _ => .reserved

/-- Whether a write to it passes the address check: not ID, TLEN, an S entry or a reserved address (R47). -/
def PortReg.writable : PortReg → Bool
  | .id => false
  | .tlen => false
  | .s _ => false
  | .reserved => false
  | .cmd => true
  | .status => true
  | .rounds => true
  | .keylen => true
  | .a => true
  | .b => true
  | .key _ => true

/-- The address of a script's target, or none for an index out of range (R89). -/
def Target.addr : Target → Option PortAddr
  | .id => some 0x000
  | .cmd => some 0x001
  | .status => some 0x002
  | .rounds => some 0x003
  | .keylen => some 0x004
  | .tlen => some 0x005
  | .a => some 0x006
  | .b => some 0x007
  | .key k => if k < 255 then some (BitVec.ofNat 10 (0x100 + k)) else none
  | .s k => if k < 512 then some (BitVec.ofNat 10 (0x200 + k)) else none
  | .raw addr => some addr

/-- r = ROUNDS[7:0], as a natural number (R25, R86). -/
def roundCount (c : Chip W) : Nat := c.rounds.toNat

/-- The key a command uses: KEY[0..b) with b = KEYLEN[7:0] (R30). -/
def keyBytes (c : Chip W) : List Byte := c.key.toList.take c.keylen.toNat

/-- t = 2·(r+1), the number of subkeys for r rounds (R121). -/
def tableSize (r : Nat) : Nat := 2 * (r + 1)

/-- c = max(1, ceil(8·b / W)), the number of L words for b key bytes (R121). -/
def keyWords (W : Width) (b : Nat) : Nat := max 1 ((8 * b + (W.bits - 1)) / W.bits)

/-- The ID register: W, R_MAX and B_MAX in its low three bytes and 0 above them (R21). -/
def idWord (W : Width) : BitVec 32 :=
  (0#8) ++ (BitVec.ofNat 8 Config.keyMax ++ (BitVec.ofNat 8 Config.roundsMax ++ BitVec.ofNat 8 W.bits))

end Sys2Proof.Machine
end

