-- ==== Sys2Proof/Machine/KeySchedule.lean ====
section
/-! DEFINITION. Key expansion and EXPAND (spec/43_key_schedule.md R120 to R131; 90_conflicts.md C3, C5). -/

namespace Sys2Proof.Machine

variable {W : Width}

/-- Pack's byte loop for i = n-1 downto 0 (R122; 90_conflicts.md C5). -/
def packBytes (key : List Byte) : Nat → List (Word W) → List (Word W)
  | 0, l => l
  | i + 1, l =>
    packBytes key i
      (l.set (i / W.bytes) (wrappingAdd (rotl (l.getD (i / W.bytes) 0) 8) (fromU8 (key.getD i 0))))

/-- Pack: the key bytes as c Words (R122). -/
def pack (W : Width) (key : List Byte) : List (Word W) :=
  packBytes key key.length (List.replicate (keyWords W key.length) 0)

/-- The first `n` terms of x, x + Q_W, x + 2·Q_W, … -/
def progression (x : Word W) : Nat → List (Word W)
  | 0 => []
  | n + 1 => x :: progression (wrappingAdd x (magicQ W)) n

/-- Initialize: S[0] = P_W and S[i] = S[i-1] + Q_W, for t entries (R124). -/
def initTable (W : Width) (r : Nat) : List (Word W) := progression (magicP W) (tableSize r)

/-- What Mix works on (R125): the table, the key words, the two indices and the two accumulators. -/
structure MixState (W : Width) where
  s : List (Word W)
  l : List (Word W)
  i : Nat
  j : Nat
  ma : Word W
  mb : Word W
deriving DecidableEq, Repr

/-- One iteration of Mix, with t table entries and c key words; the second line uses the new MA, and the indices
advance by one each, as the cipher's canonical step does (R125, R131; 90_conflicts.md C3). -/
def mixStep (t c : Nat) (m : MixState W) : MixState W :=
  let ma := rotl (wrappingAdd (wrappingAdd (m.s.getD m.i 0) m.ma) m.mb) 3
  let mb := rotl (wrappingAdd (wrappingAdd (m.l.getD m.j 0) ma) m.mb) (wrappingAdd ma m.mb).toNat
  { s := m.s.set m.i ma
    l := m.l.set m.j mb
    i := (m.i + 1) % t
    j := (m.j + 1) % c
    ma := ma
    mb := mb }

/-- `n` iterations of Mix. -/
def mixLoop (t c : Nat) : Nat → MixState W → MixState W
  | 0, m => m
  | n + 1, m => mixLoop t c n (mixStep t c m)

/-- Mix's start: both indices and both accumulators 0 (R125). -/
def mixStart (s l : List (Word W)) : MixState W := { s := s, l := l, i := 0, j := 0, ma := 0, mb := 0 }

/-- `expand(key, r)`: Pack, Initialize, then 3·max(t, c) iterations of Mix; L is discarded (R120, R126). -/
def expand (W : Width) (key : List Byte) (r : Nat) : List (Word W) :=
  (mixLoop (tableSize r) (keyWords W key.length) (3 * max (tableSize r) (keyWords W key.length))
    (mixStart (initTable W r) (pack W key))).s

/-- The table a key command computes: from KEY[0..b) and r (R128, R142, R143). -/
def freshTable (c : Chip W) : List (Word W) := expand W (keyBytes c) (roundCount c)

/-- S with its first entries replaced by those of `table`, the rest as they were (R127). -/
def writeSubkeys (table : List (Word W)) (s : Vector (Word W) 512) : Vector (Word W) 512 :=
  .ofFn fun k => (table[k.val]?).getD s[k]

/-- A key command's write-back: S[0..t), TLEN = t, and L left with free values (R127, R32). -/
def storeTable (c : Chip W) (table : List (Word W)) (draw : Nat) : Chip W :=
  { c with
    s := writeSubkeys table c.s
    tlen := BitVec.ofNat 10 (tableSize (roundCount c))
    l := .ofFn fun k => Config.scratchLeft W draw k.val }

/-- `PerformExpand` (R128). -/
def performExpand (c : Chip W) (draw : Nat) : Chip W := storeTable c (freshTable c) draw

/-- EXPAND (R128). -/
def execExpand (s : State) : Host.Outcome State Fault Refusal :=
  complete { s with draws := s.draws + 1 } (performExpand s.chip s.draws)

end Sys2Proof.Machine
end

