-- ==== Sys2Proof/Machine/Cipher.lean ====
section
/-! DEFINITION. The encrypt/decrypt datapath, ENCRYPT and DECRYPT (spec/44_cipher.md R140 to R146; 90_conflicts.md C1, C2,
C4). -/

namespace Sys2Proof.Machine

variable {W : Width}

/-- Round i of encryption: the two half-rounds, the second using the new A (R140). -/
def encryptRound (s : List (Word W)) (i : Nat) (p : Pair W) : Pair W :=
  let a := wrappingAdd (rotl (p.1 ^^^ p.2) p.2.toNat) (s.getD (2 * i) 0)
  let b := wrappingAdd (rotl (p.2 ^^^ a) a.toNat) (s.getD (2 * i + 1) 0)
  (a, b)

/-- Rounds 1 to r inclusive, none when r = 0 (R140; 90_conflicts.md C1). -/
def encryptRounds (s : List (Word W)) : Nat → Pair W → Pair W
  | 0, p => p
  | i + 1, p => encryptRound s (i + 1) (encryptRounds s i p)

/-- `encrypt(A, B, S, r)` (R140). -/
def encrypt (s : List (Word W)) (r : Nat) (p : Pair W) : Pair W :=
  encryptRounds s r (wrappingAdd p.1 (s.getD 0 0), wrappingAdd p.2 (s.getD 1 0))

/-- Round i of decryption: the half-rounds undone, the first using the new B (R141). -/
def decryptRound (s : List (Word W)) (i : Nat) (p : Pair W) : Pair W :=
  let b := rotr (wrappingSub p.2 (s.getD (2 * i + 1) 0)) p.1.toNat ^^^ p.1
  let a := rotr (wrappingSub p.1 (s.getD (2 * i) 0)) b.toNat ^^^ b
  (a, b)

/-- Rounds r downto 1 inclusive, none when r = 0 (R141; 90_conflicts.md C2, C5). -/
def decryptRounds (s : List (Word W)) : Nat → Pair W → Pair W
  | 0, p => p
  | i + 1, p => decryptRounds s i (decryptRound s (i + 1) p)

/-- `decrypt(A, B, S, r)` (R141). -/
def decrypt (s : List (Word W)) (r : Nat) (p : Pair W) : Pair W :=
  let q := decryptRounds s r p
  (wrappingSub q.1 (s.getD 0 0), wrappingSub q.2 (s.getD 1 0))

/-- The block with the pair `p` in A and B. -/
def setBlock (c : Chip W) (p : Pair W) : Chip W := { c with a := p.1, b := p.2 }

/-- `PerformEncrypt`: expand afresh, then encrypt A and B under that table (R142). -/
def performEncrypt (c : Chip W) (draw : Nat) : Chip W :=
  setBlock (storeTable c (freshTable c) draw) (encrypt (freshTable c) (roundCount c) (c.a, c.b))

/-- `PerformDecrypt`: expand afresh, then decrypt A and B under that table (R143). -/
def performDecrypt (c : Chip W) (draw : Nat) : Chip W :=
  setBlock (storeTable c (freshTable c) draw) (decrypt (freshTable c) (roundCount c) (c.a, c.b))

/-- ENCRYPT (R142). -/
def execEncrypt (s : State) : Host.Outcome State Fault Refusal :=
  complete { s with draws := s.draws + 1 } (performEncrypt s.chip s.draws)

/-- DECRYPT (R143). -/
def execDecrypt (s : State) : Host.Outcome State Fault Refusal :=
  complete { s with draws := s.draws + 1 } (performDecrypt s.chip s.draws)

end Sys2Proof.Machine
end

