-- ==== Sys2Proof/Machine/Rotate.lean ====
section
/-! DEFINITION. The rotation unit's commands, ROTL and ROTR (spec/42_rotate.md R112, R113). -/

namespace Sys2Proof.Machine

variable {W : Width}

/-- `Perform(ROTL)`; the amount is all W bits of B (R112). -/
def performRotl (c : Chip W) : Chip W := { c with a := rotl c.a c.b.toNat }

/-- `Perform(ROTR)`; the amount is all W bits of B (R113). -/
def performRotr (c : Chip W) : Chip W := { c with a := rotr c.a c.b.toNat }

/-- ROTL (R112). -/
def execRotl (s : State) : Host.Outcome State Fault Refusal := complete s (performRotl s.chip)

/-- ROTR (R113). -/
def execRotr (s : State) : Host.Outcome State Fault Refusal := complete s (performRotr s.chip)

end Sys2Proof.Machine
end

