-- ==== Sys2Proof/Machine/WordOps.lean ====
section
/-! DEFINITION. The modular adder/subtractor's commands, ADD and SUB (spec/41_wordops.md R105, R106). -/

namespace Sys2Proof.Machine

variable {W : Width}

/-- `Perform(ADD)` (R105). -/
def performAdd (c : Chip W) : Chip W := { c with a := wrappingAdd c.a c.b }

/-- `Perform(SUB)` (R106). -/
def performSub (c : Chip W) : Chip W := { c with a := wrappingSub c.a c.b }

/-- ADD (R105). -/
def execAdd (s : State) : Host.Outcome State Fault Refusal := complete s (performAdd s.chip)

/-- SUB (R106). -/
def execSub (s : State) : Host.Outcome State Fault Refusal := complete s (performSub s.chip)

end Sys2Proof.Machine
end

