-- ==== Sys2Proof/Machine/Dispatch.lean ====
section
/-! DEFINITION. The dispatch of the engine's Complete step on the pending command (spec/40_command.md R96). -/

namespace Sys2Proof.Machine

/-- Complete for the command i (R91, R96). -/
def exec (i : Instr) (s : State) : Host.Outcome State Fault Refusal :=
  match i with
  | .nop => Sys2Proof.Machine.execNop s
  | .expand => Sys2Proof.Machine.execExpand s
  | .encrypt => Sys2Proof.Machine.execEncrypt s
  | .decrypt => Sys2Proof.Machine.execDecrypt s
  | .add => Sys2Proof.Machine.execAdd s
  | .sub => Sys2Proof.Machine.execSub s
  | .rotl => Sys2Proof.Machine.execRotl s
  | .rotr => Sys2Proof.Machine.execRotr s

end Sys2Proof.Machine
end

