-- ==== Sys2Proof/Machine/Engine.lean ====
section
/-! DEFINITION. The engine's turn (spec/40_command.md R91, R96). -/

namespace Sys2Proof.Machine

/-- Complete, enabled exactly when BUSY = 1: the pending command PEND_OP stands for is performed (R91, R96). With BUSY = 0
the engine has no step and the turn passes. -/
def engineTurn (s : State) : Host.Outcome State Fault Refusal :=
  if s.chip.status.busy then
    match decodeOpcode s.chip.pendOp with
    | some i => exec i s
    | none => .fault .reservedOpcodePending
  else .next s

end Sys2Proof.Machine
end

