-- ==== Sys2Proof/Machine/Port.lean ====
section
/-! DEFINITION. The host port's two transactions, PortRead and PortWrite (spec/20_memory.md R41 to R54). -/

namespace Sys2Proof.Machine

variable {W : Width}

/-- The value of a register that the engine may be changing: a free value while BUSY = 1 (R46). -/
def unlessBusy (c : Chip W) (draw : Nat) (value : PortData W) : PortData W :=
  if c.status.busy then Config.busyRead W draw else value

/-- What a read of a register returns, zero-extended to D bits (R42, R45). -/
def readReg (c : Chip W) (draw : Nat) : PortReg → PortData W
  | .id => (idWord W).setWidth W.portBits
  | .cmd => 0
  | .status => c.status.word.setWidth W.portBits
  | .rounds => c.rounds.setWidth W.portBits
  | .keylen => c.keylen.setWidth W.portBits
  | .tlen => unlessBusy c draw (c.tlen.setWidth W.portBits)
  | .a => unlessBusy c draw (c.a.setWidth W.portBits)
  | .b => unlessBusy c draw (c.b.setWidth W.portBits)
  | .key k => c.key[k].setWidth W.portBits
  | .s k => unlessBusy c draw (c.s[k].setWidth W.portBits)
  | .reserved => 0

/-- `PortRead(addr)`; `draw` numbers the free value it may return (R45). -/
def portRead (c : Chip W) (draw : Nat) (addr : PortAddr) : PortData W := readReg c draw (portReg addr)

/-- `StatusWrite(data)` (R49). -/
def statusWrite (c : Chip W) (data : PortData W) : Chip W :=
  { c with status := c.status.written (data.getLsbD 1) (data.getLsbD 2) }

/-- Step 4 of PortWrite: the write itself, of the low bits the register holds (R42, R47 to R52). The registers that are
not written here never reach it. -/
def writeReg (c : Chip W) (data : PortData W) : PortReg → Chip W
  | .cmd => acceptCommand c (data.setWidth 32)
  | .rounds => { c with rounds := data.setWidth 8 }
  | .keylen => { c with keylen := data.setWidth 8 }
  | .a => { c with a := data.setWidth W.bits }
  | .b => { c with b := data.setWidth W.bits }
  | .key k => { c with key := c.key.set k (data.setWidth 8) }
  | .status => c
  | .id => c
  | .tlen => c
  | .s _ => c
  | .reserved => c

/-- A write to a register, with R47's checks in their order: address, then STATUS, then busy. -/
def guardedWrite (c : Chip W) (data : PortData W) (reg : PortReg) : Chip W :=
  if reg.writable = false then raiseError .access c
  else if reg = .status then statusWrite c data
  else if c.status.busy then raiseError .busyWrite c
  else writeReg c data reg

/-- `PortWrite(addr, data)` (R47). -/
def portWrite (c : Chip W) (addr : PortAddr) (data : PortData W) : Chip W := guardedWrite c data (portReg addr)

end Sys2Proof.Machine
end

