-- ==== Sys2Proof/Machine/HostAgent.lean ====
section
/-! DEFINITION. The turns of the host and of the platform: one line of the host's script (spec/30_encoding.md R87), and the
reset event (spec/70_reset_and_hazards.md R170 to R172). -/

namespace Sys2Proof.Machine

variable {W : Width}

/-- The value of a host-side name; a free value if no RD has bound it (notes/assumptions/9.md). -/
def HostSide.value (h : HostSide W) (name : HostName) : PortData W :=
  (h.names.lookup name).getD (Config.unboundName W name)

/-- The value an EXPECT asks for: its number, or what the name it gives stands for (notes/assumptions/14.md). -/
def HostSide.expected (h : HostSide W) : ExpectValue W → PortData W
  | .number value => value
  | .name name => h.value name

/-- The host having run an EXPECT: the next line follows, and another value than the one asked for is counted
(notes/assumptions/9.md). -/
def HostSide.check (h : HostSide W) (name : HostName) (value : ExpectValue W) : HostSide W :=
  { h with
    line := h.line + 1
    failedExpects := if h.value name = h.expected value then h.failedExpects else h.failedExpects + 1 }

/-- The host with its next line being number n. -/
def HostSide.goto (h : HostSide W) (n : Nat) : HostSide W := { h with line := n }

/-- The host having read `value`, bound to a name if the line gives one (R87). -/
def HostSide.bind (h : HostSide W) (name : Option HostName) (value : PortData W) : HostSide W :=
  match name with
  | none => h
  | some n => { h with names := (n, value) :: h.names }

/-- One line of the script; a read takes a draw number, whether or not it uses it. Only a write reaches the block's
state: reads change none (R45, R53) and host-side lines make no transaction (R87). -/
def runLine (s : State) : HostLine s.width → State
  | .write addr data =>
    { s with chip := portWrite s.chip addr data, host := s.host.goto (s.host.line + 1) }
  | .read addr name =>
    { s with
      host := (s.host.bind name (portRead s.chip s.draws addr)).goto (s.host.line + 1)
      draws := s.draws + 1 }
  | .branch name bit value target =>
    { s with
      host := s.host.goto (if (s.host.value name).getLsbD bit = value then target else s.host.line + 1) }
  | .expect name value => { s with host := s.host.check name value }

/-- The host's turn: it runs its next line, or does nothing when the script is over (R182). -/
def hostTurn (s : State) : State :=
  match s.host.script[s.host.line]? with
  | none => s
  | some line => runLine s line

/-- The reset event: every register of the block takes its reset value, whatever the state before it; KEY, S and L are
drawn afresh; a pending command is abandoned (R170 to R172). The host's script is not the block's, and goes on. -/
def resetTurn (s : State) : State :=
  { s with chip := .atReset s.width s.draws, draws := s.draws + 1 }

end Sys2Proof.Machine
end

