-- ==== Sys2Proof/Machine/Step.lean ====
section
/-! DEFINITION. One step of the total order of spec/20_memory.md R59: the first turn of the list is taken. When the list is
empty, a pending command completes first, as the weak fairness of spec/40_command.md R94 asks, and otherwise the host
runs its script. -/

namespace Sys2Proof.Machine

/-- The machine with `ts` as the turns still to be taken. -/
abbrev State.withTurns (s : State) (ts : List Turn) : State := { s with turns := ts }

/-- One step. -/
def step (s : State) : Host.Outcome State Fault Refusal :=
  match s.turns with
  | .host :: ts => .next (hostTurn (s.withTurns ts))
  | .engine :: ts => engineTurn (s.withTurns ts)
  | .reset :: ts => .next (resetTurn (s.withTurns ts))
  | [] => if s.chip.status.busy then engineTurn s else .next (hostTurn s)

/-- The state in which the block, idle, has just accepted a write of the word w to CMD, and the engine moves next: a command
comes whole in that write, and the block fetches nothing (R36, R63; notes/assumptions/8.md). Whatever else is in the list of
turns stays behind the engine's; an empty list needs no turn added. -/
def State.withFetchWord (s : State) (nbits w : Nat) : State :=
  { s with
    chip :=
      acceptCommand { s.chip with status := { s.chip.status with busy := false } } (BitVec.ofNat 32 (w % 2 ^ nbits))
    turns :=
      match s.turns with
      | [] => []
      | t :: ts => .engine :: t :: ts }

end Sys2Proof.Machine
end

