-- ==== Sys2Proof/Machine/Assemble.lean ====
section
/-! DEFINITION. The assembler of host scripts: each written line's port transactions, the pseudo-instructions'
expansions, and the labels (spec/30_encoding.md R87 to R89). -/

namespace Sys2Proof.Machine

variable {W : Width}

/-- The name `s` that WAIT's RD STATUS binds (R88). -/
def waitName : HostName := 0

/-- A write to a target; nothing for an index out of range (R89). -/
def emitWrite (t : Target) (value : PortData W) : List (HostLine W) :=
  match t.addr with
  | some addr => [.write addr value]
  | none => []

/-- A read of a target; nothing for an index out of range (R89). -/
def emitRead (t : Target) (name : Option HostName) : List (HostLine W) :=
  match t.addr with
  | some addr => [.read addr name]
  | none => []

/-- A bare command: a write of its word to CMD (R87). -/
def emitCommand (i : Instr) : List (HostLine W) := emitWrite .cmd ((encode i).setWidth W.portBits)

/-- `WAIT` at line number pos: read STATUS, and again while BUSY = 1 (R88). -/
def emitWait (pos : Nat) : List (HostLine W) :=
  emitRead .status (some waitName) ++ [.branch waitName 0 true pos]

/-- LOADKEY's writes of KEY[k], KEY[k+1], … (R88). -/
def emitKeyBytes : Nat → List (PortData W) → List (HostLine W)
  | _, [] => []
  | k, value :: values => emitWrite (.key k) value ++ emitKeyBytes (k + 1) values

/-- What a line that starts at line number pos assembles to, with `labels` giving each label's line number. A label that
stands nowhere assembles to nothing, and so does a key longer than 255 bytes. -/
def emit (labels : Label → Option Nat) (pos : Nat) : Stmt W → List (HostLine W)
  | .wr t value => emitWrite t value
  | .rd t name => emitRead t name
  | .command i => emitCommand i
  | .label _ => []
  | .ifGoto name bit value l =>
    match labels l with
    | some target => [.branch name bit value target]
    | none => []
  | .expect name value => [.expect name value]
  | .wait => emitWait pos
  | .loadKey values =>
    if values.length ≤ 255 then
      emitWrite .keylen (BitVec.ofNat W.portBits values.length) ++ emitKeyBytes 0 values
    else []
  | .run i => emitCommand i ++ emitWait (pos + 1)
  | .clear => emitWrite .status 0x6

/-- Whether a label stands somewhere in a script. -/
def hasLabel (script : List (Stmt W)) (l : Label) : Bool := script.any fun x => x == .label l

/-- The number of lines a written line assembles to. -/
def emitSize (script : List (Stmt W)) (x : Stmt W) : Nat :=
  (emit (fun l => if hasLabel script l then some 0 else none) 0 x).length

/-- The line number of a label, in the part `rest` of a script that starts at line number pos. -/
def labelLine (script : List (Stmt W)) (l : Label) : Nat → List (Stmt W) → Option Nat
  | _, [] => none
  | pos, x :: rest => if x = .label l then some pos else labelLine script l (pos + emitSize script x) rest

/-- The lines of the part `rest` of a script that starts at line number pos. -/
def assembleFrom (script : List (Stmt W)) : Nat → List (Stmt W) → List (HostLine W)
  | _, [] => []
  | pos, x :: rest =>
    let lines := emit (fun l => labelLine script l 0 script) pos x
    lines ++ assembleFrom script (pos + lines.length) rest

/-- A script assembled (R87). -/
def assemble (script : List (Stmt W)) : List (HostLine W) := assembleFrom script 0 script

end Sys2Proof.Machine
end

