-- ==== Sys2Proof/Machine/EndOfRun.lean ====
section
/-! DEFINITION. A run of a host script, from its start state to its end (spec/70_reset_and_hazards.md R182). -/

namespace Sys2Proof.Machine

/-- The start of a run of `script` from the block's state in s: the script's first line is next and no name is bound
(R182). -/
def State.withScript (s : State) (script : List (HostLine s.width)) : State :=
  { s with host := { HostSide.idle s.width with script := script } }

/-- A run of the script has ended: the script has executed its last line and BUSY = 0, whatever turns are left (R182). -/
abbrev State.Ended (s : State) : Prop :=
  s.host.script.length ≤ s.host.line ∧ s.chip.status.busy = false

/-- The end state of the run from s: the first state on it that has ended, with the values the script bound in its
names; none if the run has not ended after `n` steps (R182). The turns that state has left are after the run. -/
def runToEnd : Nat → State → Option State
  | 0, s => if s.Ended then some s else none
  | n + 1, s =>
    if s.Ended then some s
    else
      match step s with
      | .next t => runToEnd n t
      | .fault _ => none
      | .refused _ => none

end Sys2Proof.Machine
end

