-- ==== Sys2Proof/WellFormed.lean ====
section
/-! DEFINITION. What is well formed: a command (always, since it has no operand), a command word (R83), and the targets
and lines of a host script (R88, R89). -/

namespace Sys2Proof

/-- Every command is well formed: none has an operand that could be out of range (R81, R86). -/
def Instr.wellFormed : Instr → Bool
  | .nop => true
  | .expand => true
  | .encrypt => true
  | .decrypt => true
  | .add => true
  | .sub => true
  | .rotl => true
  | .rotr => true

/-- A command word is legal when RSV = 0 and OPC < 8 (R83). -/
def CmdWord.wellFormed (w : CmdWord) : Bool :=
  w.extractLsb' 4 28 == 0 && decide ((w.extractLsb' 0 4).toNat < 8)

/-- A table index must be in range; a raw address may be any of the 1024 (R89). -/
def Machine.Target.wellFormed : Machine.Target → Bool
  | .key k => decide (k < Config.keyMax)
  | .s k => decide (k < Config.tableMax)
  | .id => true
  | .cmd => true
  | .status => true
  | .rounds => true
  | .keylen => true
  | .tlen => true
  | .a => true
  | .b => true
  | .raw _ => true

/-- A line is well formed when its target is, and LOADKEY has at most 255 values (R88, R89). -/
def Machine.Stmt.wellFormed {W : Width} : Machine.Stmt W → Bool
  | .wr t _ => t.wellFormed
  | .rd t _ => t.wellFormed
  | .command i => i.wellFormed
  | .label _ => true
  | .ifGoto _ _ _ _ => true
  | .expect _ _ => true
  | .wait => true
  | .loadKey values => decide (values.length ≤ Config.keyMax)
  | .run i => i.wellFormed
  | .clear => true

end Sys2Proof
end

