-- ==== Sys2Proof/Safety.lean ====
section
/-! DEFINITION. What a reachable state satisfies, and runs of n steps, in the words claims use. -/

namespace Sys2Proof.Machine

variable {W : Width}

/-- R24: BUSY = 1 implies DONE = 0, and ERR = 0 implies ERRCODE = 0. -/
abbrev Status.Legal (st : Status) : Prop :=
  (st.busy = true → st.done = false) ∧ (st.err = false → st.errCode = .none)

/-- TLEN is 0, or an even number from 2 to 512 (R27). -/
abbrev tlenLegal (t : BitVec 10) : Prop :=
  t.toNat = 0 ∨ (2 ≤ t.toNat ∧ t.toNat ≤ 512 ∧ t.toNat % 2 = 0)

/-- What holds of the block in every reachable state: R24, R27, and that a pending opcode is a command's (R96). -/
abbrev Chip.Legal (c : Chip W) : Prop :=
  c.status.Legal ∧ tlenLegal c.tlen ∧ (c.status.busy = true → c.pendOp.toNat < 8)

/-- The same of the machine. -/
abbrev State.Legal (s : State) : Prop := s.chip.Legal

/-- `n` steps of the machine. -/
def run (n : Nat) (s : State) : Host.Outcome State Fault Refusal := core.run n s

end Sys2Proof.Machine
end

