-- ==== Sys2Proof/Certificates/Slice0/Obligations.lean ====
section
/-! DEFINITION. The statements for the provers. Each docstring names the rule or the section of spec/ it comes from. In all
of them a machine is written ⟨W, c, h, ts, d⟩: its width, block, host, turns to come, and draw number. -/

open Sys2Proof Sys2Proof.Machine

/-! The words the statements use. -/

/-- The command i, completed from ⟨W, c, h, ts, d⟩, leaves the block as c' and the draw number as d', and nothing else new. -/
abbrev Sys2Proof.Claims.Completes {W : Width} (i : Instr) (c : Chip W) (h : HostSide W) (ts : List Turn) (d : Nat)
    (c' : Chip W) (d' : Nat) : Prop :=
  exec i ⟨W, c, h, ts, d⟩ = .next ⟨W, c', h, ts, d'⟩

/-- STATUS after a command completes: BUSY = 0, DONE = 1, ERR and ERRCODE as before (R91). -/
abbrev Sys2Proof.Claims.completedFlags (st : Status) : Status :=
  { busy := false, done := true, err := st.err, errCode := st.errCode }

/-- `key` is the key a command uses: KEY[0..b), b = KEYLEN[7:0] (R30). -/
abbrev Sys2Proof.Claims.IsKey {W : Width} (c : Chip W) (key : List Byte) : Prop :=
  key.length = c.keylen.toNat ∧ ∀ (i : Nat) (_ : i < key.length) (_ : i < 255), key[i] = c.key[i]

/-- The block with an error recorded and nothing else changed (R152). -/
abbrev Sys2Proof.Claims.recorded {W : Width} (code : ErrCode) (c : Chip W) : Chip W :=
  { c with status := { c.status with err := true, errCode := if c.status.err = true then c.status.errCode else code } }

/-- An address no write may go to: ID, TLEN, an S entry, or a reserved one (R47). -/
abbrev Sys2Proof.Claims.Unwritable (addr : PortAddr) : Prop :=
  addr.toNat = 0x000 ∨ addr.toNat = 0x005 ∨ 0x200 ≤ addr.toNat ∨ (0x008 ≤ addr.toNat ∧ addr.toNat ≤ 0x0FF) ∨
    addr.toNat = 0x1FF

/-- An address the busy guard protects: CMD, ROUNDS, KEYLEN, A, B or a KEY entry (R47). -/
abbrev Sys2Proof.Claims.Guarded (addr : PortAddr) : Prop :=
  addr.toNat = 0x001 ∨ addr.toNat = 0x003 ∨ addr.toNat = 0x004 ∨ addr.toNat = 0x006 ∨ addr.toNat = 0x007 ∨
    (0x100 ≤ addr.toNat ∧ addr.toNat ≤ 0x1FE)

/-- What a key command does to the table: S[0..t) is the expansion of the key under r, S[t..512) is unchanged, TLEN = t, and
ROUNDS, KEYLEN, KEY and PEND_OP are unchanged (R127, R39). -/
abbrev Sys2Proof.Claims.TableWritten {W : Width} (c c' : Chip W) (key : List Byte) : Prop :=
  (expand W key c.rounds.toNat).length = 2 * (c.rounds.toNat + 1) ∧
  (∀ (k : Nat) (hk : k < 512), k < 2 * (c.rounds.toNat + 1) →
    (expand W key c.rounds.toNat)[k]? = some (c'.s[k]'hk)) ∧
  (∀ (k : Nat) (hk : k < 512), 2 * (c.rounds.toNat + 1) ≤ k → c'.s[k]'hk = c.s[k]'hk) ∧
  c'.tlen.toNat = 2 * (c.rounds.toNat + 1) ∧
  c'.rounds = c.rounds ∧ c'.keylen = c.keylen ∧ c'.key = c.key ∧ c'.pendOp = c.pendOp

/-! Encoding. -/

/-- The eight words of the opcode map decode to their commands, and four words beside them decode to nothing
(30_encoding.md §2, §3). -/
def Obligations.SpecWordsDecode : Prop :=
  decode 0x00000000 = .ok .nop ∧ decode 0x00000001 = .ok .expand ∧ decode 0x00000002 = .ok .encrypt ∧
  decode 0x00000003 = .ok .decrypt ∧ decode 0x00000004 = .ok .add ∧ decode 0x00000005 = .ok .sub ∧
  decode 0x00000006 = .ok .rotl ∧ decode 0x00000007 = .ok .rotr ∧
  decode 0x00000008 = .error (.reservedOpcode 0x8) ∧ decode 0x0000000F = .error (.reservedOpcode 0xF) ∧
  decode 0x00000010 = .error (.reservedBits 0x1) ∧ decode 0xFFFFFFFF = .error (.reservedBits 0xFFFFFFF)

/-- R84: every word is exactly one of the eight commands of the opcode map (R82) or illegal: decode and encode agree, in both
directions, on all 2^32 words. -/
def Obligations.DecodeIffEncode : Prop :=
  (∀ (w : CmdWord) (i : Instr), decode w = .ok i ↔ w = encode i) ∧
  (∀ (w : CmdWord) (i : Instr), decodeTableWord 32 w.toNat = some i ↔ w = encode i) ∧
  (encode .nop).toNat = 0 ∧ (encode .expand).toNat = 1 ∧ (encode .encrypt).toNat = 2 ∧ (encode .decrypt).toNat = 3 ∧
  (encode .add).toNat = 4 ∧ (encode .sub).toNat = 5 ∧ (encode .rotl).toNat = 6 ∧ (encode .rotr).toNat = 7

/-- R83: an illegal word, written while idle, records ILLEGAL_CMD and changes nothing else; written while busy it records
BUSY_WRITE; of the 2^32 words exactly the first 8 are legal. -/
def Obligations.IllegalWordOnlyRecordsError : Prop :=
  (∀ (W : Width) (c : Chip W) (data : PortData W),
    (8 ≤ data.toNat % 2 ^ 32 % 16 ∨ data.toNat % 2 ^ 32 / 16 ≠ 0) →
    portWrite c 0x001 data = Claims.recorded (if c.status.busy = true then .busyWrite else .illegalCmd) c) ∧
  (∀ w : CmdWord, (∃ i, decode w = .ok i) ↔ w.toNat < 8)

/-! The life of a command. -/

/-- R90, R48: a write to CMD of a command's word, its bits above 31 ignored, is accepted by an idle block; PEND_OP latches
the opcode, DONE is cleared, BUSY is set and nothing else changes; any other word records ILLEGAL_CMD. -/
def Obligations.IdleBlockAcceptsCommands : Prop :=
  ∀ (W : Width) (c : Chip W) (data : PortData W), c.status.busy = false →
    (∀ i, data.toNat % 2 ^ 32 = (encode i).toNat →
      portWrite c 0x001 data =
        { c with pendOp := opcode i, status := { c.status with busy := true, done := false } }) ∧
    ((∀ i, data.toNat % 2 ^ 32 ≠ (encode i).toNat) →
      portWrite c 0x001 data = Claims.recorded .illegalCmd c)

/-- A step runs the pending command (40_command.md §1): at a busy block whose latch holds i's opcode, the step is exec of i
when the engine's turn comes, and at an idle block the engine's turn changes nothing. The rest is the model's choice: that
the engine moves when no turn is left (notes/assumptions/7.md), and that a word placed by withFetchWord, which stands for
the acceptance of a CMD write, is run by the very next step (notes/assumptions/8.md). -/
def Obligations.StepRunsPendingCommand : Prop :=
  (∀ (W : Width) (c : Chip W) (h : HostSide W) (ts : List Turn) (d : Nat) (i : Instr),
    c.status.busy = true → c.pendOp = opcode i →
    step ⟨W, c, h, .engine :: ts, d⟩ = exec i ⟨W, c, h, ts, d⟩ ∧
    step ⟨W, c, h, [], d⟩ = exec i ⟨W, c, h, [], d⟩) ∧
  (∀ (W : Width) (c : Chip W) (h : HostSide W) (ts : List Turn) (d : Nat),
    c.status.busy = false → step ⟨W, c, h, .engine :: ts, d⟩ = .next ⟨W, c, h, ts, d⟩) ∧
  (∀ (W : Width) (c : Chip W) (h : HostSide W) (ts : List Turn) (d nbits w : Nat) (i : Instr),
    decode (BitVec.ofNat 32 (w % 2 ^ nbits)) = .ok i →
    step (State.withFetchWord ⟨W, c, h, ts, d⟩ nbits w) =
      exec i ⟨W, { c with pendOp := opcode i, status := { c.status with busy := true, done := false } }, h, ts, d⟩)

/-- R154: every command completes, from every state and on every operand, and records no error. It leaves ROUNDS,
KEYLEN, KEY and PEND_OP as they were (40_command.md §1). -/
def Obligations.EveryCommandRunsWithoutError : Prop :=
  ∀ (W : Width) (c : Chip W) (h : HostSide W) (ts : List Turn) (d : Nat) (i : Instr),
    ∃ c' d', Claims.Completes i c h ts d c' d' ∧ c'.status = Claims.completedFlags c.status ∧
      c'.rounds = c.rounds ∧ c'.keylen = c.keylen ∧ c'.key = c.key ∧ c'.pendOp = c.pendOp

/-- NOP completes with no effect but BUSY and DONE; with its word written to an idle block, two steps later STATUS has
BUSY = 0 and DONE = 1 and all else is unchanged (40_command.md §1). -/
def Obligations.NopOnlyCompletes : Prop :=
  ∀ (W : Width) (c : Chip W) (h : HostSide W) (ts : List Turn) (d : Nat),
    Claims.Completes .nop c h ts d { c with status := Claims.completedFlags c.status } d ∧
    (c.status.busy = false → h.script[h.line]? = some (.write 0x001 0x00000000) →
      run 2 ⟨W, c, h, .host :: .engine :: ts, d⟩ =
        .next ⟨W, { c with pendOp := 0, status := Claims.completedFlags c.status },
          { h with line := h.line + 1 }, ts, d⟩)

/-! The word operations. -/

/-- R105, R101: ADD, whose word is 0x00000004, leaves A + B mod 2^W in A and changes only A, BUSY and DONE. -/
def Obligations.AddWrapsModuloWord : Prop :=
  decode 0x00000004 = .ok .add ∧
  ∀ (W : Width) (c : Chip W) (h : HostSide W) (ts : List Turn) (d : Nat),
    ∃ x : Word W, x.toNat = (c.a.toNat + c.b.toNat) % 2 ^ W.bits ∧
      Claims.Completes .add c h ts d { c with a := x, status := Claims.completedFlags c.status } d ∧
      (c.b = 0 → x = c.a) ∧ (c.a = c.b → x.toNat = 2 * c.a.toNat % 2 ^ W.bits)

/-- R106, R102: SUB, whose word is 0x00000005, leaves A - B mod 2^W in A and changes only A, BUSY and DONE. -/
def Obligations.SubWrapsModuloWord : Prop :=
  decode 0x00000005 = .ok .sub ∧
  ∀ (W : Width) (c : Chip W) (h : HostSide W) (ts : List Turn) (d : Nat),
    ∃ x : Word W, x.toNat = (c.a.toNat + 2 ^ W.bits - c.b.toNat) % 2 ^ W.bits ∧
      Claims.Completes .sub c h ts d { c with a := x, status := Claims.completedFlags c.status } d ∧
      (c.b = 0 → x = c.a) ∧ (c.a = c.b → x = 0)

/-- R112, R110: ROTL, whose word is 0x00000006, rotates A left by all of B, as the spec writes it on natural numbers, and
changes only A, BUSY and DONE. -/
def Obligations.RotlRotatesByAmountModuloWidth : Prop :=
  decode 0x00000006 = .ok .rotl ∧
  ∀ (W : Width) (c : Chip W) (h : HostSide W) (ts : List Turn) (d : Nat),
    ∃ x : Word W,
      x.toNat =
        (if c.b.toNat % W.bits = 0 then c.a.toNat
         else ((c.a.toNat * 2 ^ (c.b.toNat % W.bits)) ||| (c.a.toNat / 2 ^ (W.bits - c.b.toNat % W.bits))) % 2 ^ W.bits) ∧
      Claims.Completes .rotl c h ts d { c with a := x, status := Claims.completedFlags c.status } d ∧
      (c.a = 0 → x = 0) ∧ (c.a = BitVec.allOnes W.bits → x = BitVec.allOnes W.bits)

/-- R113, R111: ROTR, whose word is 0x00000007, rotates A right by all of B, as the spec writes it on natural numbers, and
changes only A, BUSY and DONE. -/
def Obligations.RotrRotatesByAmountModuloWidth : Prop :=
  decode 0x00000007 = .ok .rotr ∧
  ∀ (W : Width) (c : Chip W) (h : HostSide W) (ts : List Turn) (d : Nat),
    ∃ x : Word W,
      x.toNat =
        (if c.b.toNat % W.bits = 0 then c.a.toNat
         else ((c.a.toNat / 2 ^ (c.b.toNat % W.bits)) ||| (c.a.toNat * 2 ^ (W.bits - c.b.toNat % W.bits))) % 2 ^ W.bits) ∧
      Claims.Completes .rotr c h ts d { c with a := x, status := Claims.completedFlags c.status } d ∧
      (c.a = 0 → x = 0) ∧ (c.a = BitVec.allOnes W.bits → x = BitVec.allOnes W.bits)

/-- R110, R111: the two rotations of a Word by any natural number, as the spec writes them on natural numbers. -/
def Obligations.RotationFormulas : Prop :=
  ∀ (W : Width) (x : Word W) (y : Nat),
    (rotl x y).toNat =
      (if y % W.bits = 0 then x.toNat
       else ((x.toNat * 2 ^ (y % W.bits)) ||| (x.toNat / 2 ^ (W.bits - y % W.bits))) % 2 ^ W.bits) ∧
    (rotr x y).toNat =
      (if y % W.bits = 0 then x.toNat
       else ((x.toNat / 2 ^ (y % W.bits)) ||| (x.toNat * 2 ^ (W.bits - y % W.bits))) % 2 ^ W.bits)

/-- The identities required of the rotations, for every W, Word x and natural k, and the two further laws, which the spec
marks as its own derivation (42_rotate.md §3, under R114). -/
def Obligations.RotationIdentities : Prop :=
  ∀ (W : Width) (x : Word W) (k : Nat),
    rotl x 0 = x ∧ rotl x W.bits = x ∧ rotl (rotr x k) k = x ∧ rotr (rotl x k) k = x ∧
    rotl x k = rotr x ((W.bits - k % W.bits) % W.bits) ∧
    (∀ k', k % W.bits = k' % W.bits → rotl x k = rotl x k')

/-- A rotator needs only the low log2(W) bits of the amount, so reducing a sum of Words mod 2^W first changes
nothing; the spec marks this as its own derivation (42_rotate.md §3, under R115). -/
def Obligations.RotationUsesLowAmountBits : Prop :=
  ∀ (W : Width) (x y z : Word W) (k : Nat),
    W.bits = 2 ^ Nat.log2 W.bits ∧
    rotl x k = rotl x (k % 2 ^ Nat.log2 W.bits) ∧ rotr x k = rotr x (k % 2 ^ Nat.log2 W.bits) ∧
    rotl x (wrappingAdd y z).toNat = rotl x (y.toNat + z.toNat)

/-- The constant pair of every width, and that both are odd, so never zero (41_wordops.md §2, under R103 and R104; the spec
marks the pairs of W other than 32 as general knowledge, its decision D3). -/
def Obligations.MagicConstantsOfEveryWidth : Prop :=
  ((magicP .w8).toNat = 0xB7 ∧ (magicQ .w8).toNat = 0x9F) ∧
  ((magicP .w16).toNat = 0xB7E1 ∧ (magicQ .w16).toNat = 0x9E37) ∧
  ((magicP .w32).toNat = 0xB7E15163 ∧ (magicQ .w32).toNat = 0x9E3779B9) ∧
  ((magicP .w64).toNat = 0xB7E151628AED2A6B ∧ (magicQ .w64).toNat = 0x9E3779B97F4A7C15) ∧
  ((magicP .w128).toNat = 0xB7E151628AED2A6ABF7158809CF4F3C7 ∧
    (magicQ .w128).toNat = 0x9E3779B97F4A7C15F39CC0605CEDC835) ∧
  ∀ W, (magicP W).toNat % 2 = 1 ∧ (magicQ W).toNat % 2 = 1

/-! Key expansion. -/

/-- Pack's closed form, which the spec marks as its own derivation (43_key_schedule.md §2, under R123). There are max(1, ceil(8b/W)) words, each the little-endian sum of its key bytes, and key byte
i is bits [8·(i mod u)+7 : 8·(i mod u)] of L[i div u]. -/
def Obligations.PackIsLittleEndian : Prop :=
  ∀ (W : Width) (key : List Byte),
    (pack W key).length = max 1 ((8 * key.length + (W.bits - 1)) / W.bits) ∧
    (∀ k < (pack W key).length,
      ((pack W key).getD k 0).toNat =
        ∑ m ∈ Finset.range W.bytes,
          if k * W.bytes + m < key.length then (key.getD (k * W.bytes + m) 0).toNat * 2 ^ (8 * m) else 0) ∧
    (∀ i < key.length,
      ((pack W key).getD (i / W.bytes) 0).extractLsb' (8 * (i % W.bytes)) 8 = key.getD i 0)

/-- Initialize gives a table of exactly t entries, S[0] = P_W and S[i] = S[i-1] + Q_W, and in closed form
S[i] = (P_W + i·Q_W) mod 2^W, which the spec marks as derived (43_key_schedule.md §3, under R124). -/
def Obligations.InitialTableIsProgression : Prop :=
  ∀ (W : Width) (r : Nat),
    (initTable W r).length = 2 * (r + 1) ∧
    (initTable W r)[0]? = some (magicP W) ∧
    (∀ i, i + 1 < 2 * (r + 1) →
      (initTable W r)[i + 1]? = some ((initTable W r).getD i 0 + magicQ W)) ∧
    ∀ i < 2 * (r + 1),
      ((initTable W r).getD i 0).toNat = ((magicP W).toNat + i * (magicQ W).toNat) % 2 ^ W.bits

/-- Mix's indices cycle: after n iterations i = n mod t and j = n mod c, and the table and the key words keep their sizes
(43_key_schedule.md §4). -/
def Obligations.MixIndicesCycle : Prop :=
  ∀ (W : Width) (s l : List (Word W)) (n : Nat), s ≠ [] → l ≠ [] →
    (mixLoop s.length l.length n (mixStart s l)).i = n % s.length ∧
    (mixLoop s.length l.length n (mixStart s l)).j = n % l.length ∧
    (mixLoop s.length l.length n (mixStart s l)).s.length = s.length ∧
    (mixLoop s.length l.length n (mixStart s l)).l.length = l.length

/-- One iteration of Mix rewrites just the two entries its indices name, with the accumulators it leaves
(43_key_schedule.md §4). -/
def Obligations.MixIterationRewritesOneEntryOfEach : Prop :=
  ∀ (W : Width) (m : MixState W), m.i < m.s.length → m.j < m.l.length →
    (mixStep m.s.length m.l.length m).s[m.i]? = some (mixStep m.s.length m.l.length m).ma ∧
    (mixStep m.s.length m.l.length m).l[m.j]? = some (mixStep m.s.length m.l.length m).mb ∧
    (mixStep m.s.length m.l.length m).ma = rotl (m.s.getD m.i 0 + m.ma + m.mb) 3 ∧
    (mixStep m.s.length m.l.length m).mb =
      rotl (m.l.getD m.j 0 + (mixStep m.s.length m.l.length m).ma + m.mb)
        ((mixStep m.s.length m.l.length m).ma + m.mb).toNat ∧
    (∀ k, k ≠ m.i → (mixStep m.s.length m.l.length m).s[k]? = m.s[k]?) ∧
    (∀ k, k ≠ m.j → (mixStep m.s.length m.l.length m).l[k]? = m.l[k]?)

/-- R120, R125: for every key and r, expand is Pack, Initialize and 3·max(t, c) iterations of Mix. There are sequences of
tables, key words and accumulators that start at the initial table, the packed key and two zeros, each next of which is one
iteration's with i = n mod t and j = n mod c, and the table after 3·max(t, c) iterations is the result, of t entries. -/
def Obligations.ExpandIsPackInitializeMix : Prop :=
  ∀ (W : Width) (key : List Byte) (r : Nat),
    ∃ (t c : Nat) (s l : Nat → List (Word W)) (ma mb : Nat → Word W),
      t = 2 * (r + 1) ∧ c = max 1 ((8 * key.length + (W.bits - 1)) / W.bits) ∧
      s 0 = initTable W r ∧ l 0 = pack W key ∧ ma 0 = 0 ∧ mb 0 = 0 ∧
      (∀ n, (s n).length = t ∧ (l n).length = c) ∧
      (∀ n,
        ma (n + 1) = rotl ((s n).getD (n % t) 0 + ma n + mb n) 3 ∧
        s (n + 1) = (s n).set (n % t) (ma (n + 1)) ∧
        mb (n + 1) = rotl ((l n).getD (n % c) 0 + ma (n + 1) + mb n) (ma (n + 1) + mb n).toNat ∧
        l (n + 1) = (l n).set (n % c) (mb (n + 1))) ∧
      expand W key r = s (3 * max t c) ∧ (expand W key r).length = t

/-- R128: EXPAND, whose word is 0x00000001, leaves the expansion of KEY[0..b) under r in S[0..t), t in TLEN, and S[t..512), A,
B, ROUNDS, KEYLEN and KEY as they were. Of a KEY byte not written since reset it says no more than that its value, whatever it
is, is the one used (notes/assumptions/3.md). -/
def Obligations.ExpandWritesTable : Prop :=
  decode 0x00000001 = .ok .expand ∧
  ∀ (W : Width) (c : Chip W) (h : HostSide W) (ts : List Turn) (d : Nat) (key : List Byte), Claims.IsKey c key →
    ∃ c' d', Claims.Completes .expand c h ts d c' d' ∧ c'.status = Claims.completedFlags c.status ∧
      Claims.TableWritten c c' key ∧ c'.a = c.a ∧ c'.b = c.b

/-- The empty key packs to the one word 0, runs 3·t iterations and gives a table of length t; that it gives the table of the
one-byte key 00 the spec marks as derived (43_key_schedule.md §6, under R129). -/
def Obligations.EmptyKeyIsValid : Prop :=
  ∀ (W : Width) (r : Nat),
    pack W [] = [0] ∧ keyWords W 0 = 1 ∧
    expand W [] r = (mixLoop (2 * (r + 1)) 1 (3 * (2 * (r + 1))) (mixStart (initTable W r) [0])).s ∧
    (expand W [] r).length = 2 * (r + 1) ∧ pack W [0] = [0] ∧ expand W [0] r = expand W [] r

/-- The table a key command leaves depends only on W, b, r and KEY[0..b): two blocks that agree on these, whatever else
they hold, end with the same S[0..t) and the same TLEN. The spec marks this as its own derivation (43_key_schedule.md §6, under R130). -/
def Obligations.ExpansionDependsOnlyOnKeyAndRounds : Prop :=
  ∀ (W : Width) (c₁ c₂ : Chip W) (h₁ h₂ : HostSide W) (ts₁ ts₂ : List Turn) (d₁ d₂ : Nat) (i₁ i₂ : Instr),
    i₁ ∈ [Instr.expand, Instr.encrypt, Instr.decrypt] → i₂ ∈ [Instr.expand, Instr.encrypt, Instr.decrypt] →
    c₁.rounds = c₂.rounds → c₁.keylen = c₂.keylen →
    (∀ (k : Nat) (hk : k < 255), k < c₁.keylen.toNat → c₁.key[k]'hk = c₂.key[k]'hk) →
    ∃ c₁' d₁' c₂' d₂', Claims.Completes i₁ c₁ h₁ ts₁ d₁ c₁' d₁' ∧ Claims.Completes i₂ c₂ h₂ ts₂ d₂ c₂' d₂' ∧
      c₁'.tlen = c₂'.tlen ∧
      ∀ (k : Nat) (hk : k < 512), k < 2 * (c₁.rounds.toNat + 1) → c₁'.s[k]'hk = c₂'.s[k]'hk

/-! The cipher. -/

/-- R140: encrypt, for every table, r and block. There are sequences of the two words, from the whitened block on, each next
pair of which is round i's with S[2i] and S[2i+1], and the pair after round r is the result. -/
def Obligations.EncryptIsWhiteningThenRounds : Prop :=
  ∀ (W : Width) (s : List (Word W)) (r : Nat) (p : Pair W),
    ∃ a b : Nat → Word W,
      a 0 = p.1 + s.getD 0 0 ∧ b 0 = p.2 + s.getD 1 0 ∧
      (∀ i, 1 ≤ i → i ≤ r →
        a i = rotl (a (i - 1) ^^^ b (i - 1)) (b (i - 1)).toNat + s.getD (2 * i) 0 ∧
        b i = rotl (b (i - 1) ^^^ a i) (a i).toNat + s.getD (2 * i + 1) 0) ∧
      encrypt s r p = (a r, b r)

/-- R141: decrypt, for every table, r and block. There are sequences of the two words, from the block at r downwards, each
next pair of which undoes round i, and the pair below round 1 less S[0] and S[1] is the result. It is the exact inverse of
encrypt. -/
def Obligations.DecryptIsRoundsUndoneThenWhitening : Prop :=
  ∀ (W : Width) (s : List (Word W)) (r : Nat) (p : Pair W),
    ∃ a b : Nat → Word W,
      a r = p.1 ∧ b r = p.2 ∧
      (∀ i, 1 ≤ i → i ≤ r →
        b (i - 1) = rotr (b i - s.getD (2 * i + 1) 0) (a i).toNat ^^^ a i ∧
        a (i - 1) = rotr (a i - s.getD (2 * i) 0) (b (i - 1)).toNat ^^^ b (i - 1)) ∧
      decrypt s r p = (a 0 - s.getD 0 0, b 0 - s.getD 1 0) ∧
      decrypt s r (encrypt s r p) = p ∧ encrypt s r (decrypt s r p) = p

/-- R142: ENCRYPT, whose word is 0x00000002, expands afresh into S[0..t) and TLEN as EXPAND does, and leaves in A and B the encryption
of A and B under that table. -/
def Obligations.EncryptUsesFreshTable : Prop :=
  decode 0x00000002 = .ok .encrypt ∧
  ∀ (W : Width) (c : Chip W) (h : HostSide W) (ts : List Turn) (d : Nat) (key : List Byte), Claims.IsKey c key →
    ∃ c' d', Claims.Completes .encrypt c h ts d c' d' ∧ c'.status = Claims.completedFlags c.status ∧
      Claims.TableWritten c c' key ∧
      (c'.a, c'.b) = encrypt (expand W key c.rounds.toNat) c.rounds.toNat (c.a, c.b)

/-- R143: DECRYPT, whose word is 0x00000003, expands afresh into S[0..t) and TLEN as EXPAND does, and leaves in A and B the decryption
of A and B under that table. -/
def Obligations.DecryptUsesFreshTable : Prop :=
  decode 0x00000003 = .ok .decrypt ∧
  ∀ (W : Width) (c : Chip W) (h : HostSide W) (ts : List Turn) (d : Nat) (key : List Byte), Claims.IsKey c key →
    ∃ c' d', Claims.Completes .decrypt c h ts d c' d' ∧ c'.status = Claims.completedFlags c.status ∧
      Claims.TableWritten c c' key ∧
      (c'.a, c'.b) = decrypt (expand W key c.rounds.toNat) c.rounds.toNat (c.a, c.b)

/-- R144: with r = 0 only the whitening runs. ENCRYPT leaves (A + S[0], B + S[1]) and DECRYPT (A - S[0], B - S[1]), for the
S[0], S[1] it has just written, and TLEN = 2. -/
def Obligations.ZeroRoundsOnlyWhiten : Prop :=
  ∀ (W : Width) (c : Chip W) (h : HostSide W) (ts : List Turn) (d : Nat), c.rounds = 0 →
    (∃ c' d', Claims.Completes .encrypt c h ts d c' d' ∧ c'.tlen = 2 ∧
      c'.a = c.a + c'.s[0] ∧ c'.b = c.b + c'.s[1]) ∧
    (∃ c' d', Claims.Completes .decrypt c h ts d c' d' ∧ c'.tlen = 2 ∧
      c'.a = c.a - c'.s[0] ∧ c'.b = c.b - c'.s[1])

/-- Decryption undoes encryption and encryption undoes decryption, for every table, r and block, and so for the two
commands run one after the other with ROUNDS, KEYLEN and KEY unchanged. The spec marks this as its own derivation (44_cipher.md §3, under
R145). -/
def Obligations.EncryptDecryptRoundTrip : Prop :=
  (∀ (W : Width) (s : List (Word W)) (r : Nat) (p : Pair W),
    decrypt s r (encrypt s r p) = p ∧ encrypt s r (decrypt s r p) = p) ∧
  (∀ (W : Width) (c : Chip W) (h : HostSide W) (ts : List Turn) (d : Nat) (i₁ i₂ : Instr),
    (i₁, i₂) ∈ [(Instr.encrypt, Instr.decrypt), (Instr.decrypt, Instr.encrypt)] →
    ∃ c₁ d₁ c₂ d₂, Claims.Completes i₁ c h ts d c₁ d₁ ∧ Claims.Completes i₂ c₁ h ts d₁ c₂ d₂ ∧
      c₂.a = c.a ∧ c₂.b = c.b)

/-! What commands write. -/

/-- The state each command writes besides BUSY and DONE, and that a rejected command, one whose word is illegal or that
comes while BUSY = 1, writes only ERR and ERRCODE. L, which is hidden, is written by the three key commands. The spec marks this as its own derivation (10_state.md §6, under R39). -/
def Obligations.CommandsWriteOnlyTheirRegisters : Prop :=
  (∀ (W : Width) (c : Chip W) (h : HostSide W) (ts : List Turn) (d : Nat) (i : Instr),
    ∃ c' d', Claims.Completes i c h ts d c' d' ∧
      c'.status.err = c.status.err ∧ c'.status.errCode = c.status.errCode ∧
      c'.rounds = c.rounds ∧ c'.keylen = c.keylen ∧ c'.key = c.key ∧ c'.pendOp = c.pendOp ∧
      (i ∈ [Instr.nop, Instr.expand] → c'.a = c.a) ∧
      (i ∉ [Instr.encrypt, Instr.decrypt] → c'.b = c.b) ∧
      (i ∉ [Instr.expand, Instr.encrypt, Instr.decrypt] →
        c'.s = c.s ∧ c'.tlen = c.tlen ∧ c'.l = c.l ∧ d' = d) ∧
      (∀ (k : Nat) (hk : k < 512), 2 * (c.rounds.toNat + 1) ≤ k → c'.s[k]'hk = c.s[k]'hk)) ∧
  (∀ (W : Width) (c : Chip W) (data : PortData W), (c.status.busy = true ∨ ∀ i, data.setWidth 32 ≠ encode i) →
    portWrite c 0x001 data =
      { c with
        status :=
          { c.status with
            err := (portWrite c 0x001 data).status.err, errCode := (portWrite c 0x001 data).status.errCode } })

/-- KEY changes only where the host writes an entry of it while idle, or at a reset (10_state.md §3). -/
def Obligations.OnlyHostWritesKey : Prop :=
  ∀ (W : Width) (c c' : Chip W) (h h' : HostSide W) (ts ts' : List Turn) (d d' : Nat),
    step ⟨W, c, h, ts, d⟩ = .next ⟨W, c', h', ts', d'⟩ → ts.head? ≠ some .reset →
    ∀ (k : Nat) (hk : k < 255), c'.key[k]'hk ≠ c.key[k]'hk →
      c.status.busy = false ∧
      ∃ data, h.script[h.line]? = some (.write (BitVec.ofNat 10 (0x100 + k)) data) ∧
        c'.key[k]'hk = data.setWidth 8

/-- S and TLEN change only when the engine completes EXPAND, ENCRYPT or DECRYPT, or at a reset: no host write reaches them
(10_state.md §3, 20_memory.md §3). That the engine moves when no turn is left is the model's (notes/assumptions/7.md). -/
def Obligations.OnlyKeyCommandsWriteTable : Prop :=
  ∀ (W : Width) (c c' : Chip W) (h h' : HostSide W) (ts ts' : List Turn) (d d' : Nat),
    step ⟨W, c, h, ts, d⟩ = .next ⟨W, c', h', ts', d'⟩ → ts.head? ≠ some .reset →
    (c'.s ≠ c.s ∨ c'.tlen ≠ c.tlen) →
    c.status.busy = true ∧ (ts.head? = some .engine ∨ ts = []) ∧
      (c.pendOp = 0x1 ∨ c.pendOp = 0x2 ∨ c.pendOp = 0x3)

/-- An idle block becomes busy only by accepting a CMD write of a command's word (40_command.md §1, 60_exceptions.md §5). -/
def Obligations.OnlyAcceptanceSetsBusy : Prop :=
  ∀ (W : Width) (c c' : Chip W) (h h' : HostSide W) (ts ts' : List Turn) (d d' : Nat),
    step ⟨W, c, h, ts, d⟩ = .next ⟨W, c', h', ts', d'⟩ →
    c.status.busy = false → c'.status.busy = true →
    ∃ data i, h.script[h.line]? = some (.write 0x001 data) ∧ data.toNat % 2 ^ 32 = (encode i).toNat ∧
      c'.pendOp = opcode i ∧ c'.status.done = false

/-! The port. -/

/-- R44: the address decode. Address bit 9 selects S, bits [9:8] = 01 KEY, and bits [9:8] = 00 the registers, of which eight are
defined; a read of a reserved address returns 0 and a write to one records ACCESS. -/
def Obligations.AddressDecode : Prop :=
  (∀ (addr : PortAddr), 0x200 ≤ addr.toNat → ∃ hk, portReg addr = .s ⟨addr.toNat - 0x200, hk⟩) ∧
  (∀ (addr : PortAddr), 0x100 ≤ addr.toNat → addr.toNat ≤ 0x1FE →
    ∃ hk, portReg addr = .key ⟨addr.toNat - 0x100, hk⟩) ∧
  portReg 0x000 = .id ∧ portReg 0x001 = .cmd ∧ portReg 0x002 = .status ∧ portReg 0x003 = .rounds ∧
  portReg 0x004 = .keylen ∧ portReg 0x005 = .tlen ∧ portReg 0x006 = .a ∧ portReg 0x007 = .b ∧
  (∀ (addr : PortAddr), ((0x008 ≤ addr.toNat ∧ addr.toNat ≤ 0x0FF) ∨ addr.toNat = 0x1FF) →
    portReg addr = .reserved ∧
    ∀ (W : Width) (c : Chip W) (d : Nat) (data : PortData W),
      portRead c d addr = 0 ∧ portWrite c addr data = Claims.recorded .access c)

/-- R21: ID reads W, R_MAX and B_MAX in its low three bytes and 0 above, busy or not; a write to it records ACCESS and
nothing else. -/
def Obligations.IdIdentifiesTheBlock : Prop :=
  ∀ (W : Width) (c : Chip W) (d : Nat) (data : PortData W),
    (portRead c d 0x000).toNat = W.bits + 0xFF * 2 ^ 8 + 0xFF * 2 ^ 16 ∧
    portWrite c 0x000 data = Claims.recorded .access c ∧
    (portRead (portWrite c 0x000 data) d 0x000).toNat = W.bits + 0xFF * 2 ^ 8 + 0xFF * 2 ^ 16

/-- What a read returns (20_memory.md §2): the registers' values zero-extended, 0 for CMD and the reserved addresses, and, while idle,
TLEN, A, B and the S entries. -/
def Obligations.PortReadReturnsRegisterValue : Prop :=
  ∀ (W : Width) (c : Chip W) (d : Nat),
    (portRead c d 0x001).toNat = 0 ∧
    (portRead c d 0x002).toNat =
      c.status.busy.toNat + 2 * c.status.done.toNat + 4 * c.status.err.toNat + 16 * c.status.errCode.bits.toNat ∧
    (portRead c d 0x003).toNat = c.rounds.toNat ∧
    (portRead c d 0x004).toNat = c.keylen.toNat ∧
    (∀ (k : Nat) (hk : k < 255), (portRead c d (BitVec.ofNat 10 (0x100 + k))).toNat = (c.key[k]'hk).toNat) ∧
    (∀ addr : PortAddr, (0x008 ≤ addr.toNat ∧ addr.toNat ≤ 0x0FF) ∨ addr.toNat = 0x1FF → portRead c d addr = 0) ∧
    (c.status.busy = false →
      (portRead c d 0x005).toNat = c.tlen.toNat ∧
      (portRead c d 0x006).toNat = c.a.toNat ∧
      (portRead c d 0x007).toNat = c.b.toNat ∧
      (∀ (k : Nat) (hk : k < 512), (portRead c d (BitVec.ofNat 10 (0x200 + k))).toNat = (c.s[k]'hk).toNat))

/-- While BUSY = 1, reads of TLEN, A, B and S tell nothing of the block: two busy blocks, whatever they hold, answer alike
(20_memory.md §2; that the answer is the free value Config.busyRead is the model's, notes/assumptions/5.md). -/
def Obligations.BusyReadsRevealNothing : Prop :=
  ∀ (W : Width) (c₁ c₂ : Chip W) (d : Nat) (addr : PortAddr),
    c₁.status.busy = true → c₂.status.busy = true →
    (addr.toNat = 0x005 ∨ addr.toNat = 0x006 ∨ addr.toNat = 0x007 ∨ 0x200 ≤ addr.toNat) →
    portRead c₁ d addr = portRead c₂ d addr

/-- The host's turn runs one line, of which only a write changes the block, by that one port write. A read binds the value read and
no other name, a branch goes to its target or to the next line, and EXPECT, like the others, goes to the next line
(20_memory.md §1, §2; 30_encoding.md §6). The model's, not the spec's: a read takes a draw number (notes/assumptions/5.md), with no line
left the turn passes (notes/assumptions/7.md), a failed EXPECT is counted and an unbound name has a free value
(notes/assumptions/9.md), EXPECT may give a name, which stands for its bound value (notes/assumptions/14.md, deduced from a
program of the spec, since R87 gives a number only), and a branch's bit past the D bits of a value is 0
(notes/assumptions/15.md). -/
def Obligations.HostTurnRunsOneLine : Prop :=
  ∀ (W : Width) (c : Chip W) (h : HostSide W) (ts : List Turn) (d : Nat),
    (∀ addr data, h.script[h.line]? = some (.write addr data) →
      step ⟨W, c, h, .host :: ts, d⟩ = .next ⟨W, portWrite c addr data, { h with line := h.line + 1 }, ts, d⟩) ∧
    (∀ addr name, h.script[h.line]? = some (.read addr (some name)) →
      ∃ h', step ⟨W, c, h, .host :: ts, d⟩ = .next ⟨W, c, h', ts, d + 1⟩ ∧
        h'.value name = portRead c d addr ∧ (∀ other, other ≠ name → h'.value other = h.value other) ∧
        h'.line = h.line + 1 ∧ h'.script = h.script ∧ h'.failedExpects = h.failedExpects) ∧
    (∀ addr, h.script[h.line]? = some (.read addr none) →
      step ⟨W, c, h, .host :: ts, d⟩ = .next ⟨W, c, { h with line := h.line + 1 }, ts, d + 1⟩) ∧
    (∀ name bit value target, h.script[h.line]? = some (.branch name bit value target) →
      step ⟨W, c, h, .host :: ts, d⟩ =
        .next ⟨W, c, { h with line := if (h.value name).getLsbD bit = value then target else h.line + 1 }, ts, d⟩) ∧
    (∀ name expected, h.script[h.line]? = some (.expect name expected) →
      ∃ h', step ⟨W, c, h, .host :: ts, d⟩ = .next ⟨W, c, h', ts, d⟩ ∧
        h'.line = h.line + 1 ∧ h'.script = h.script ∧ h'.names = h.names ∧
        ∀ value, (expected = .number value ∨ ∃ other, expected = .name other ∧ value = h.value other) →
          h'.failedExpects = if h.value name = value then h.failedExpects else h.failedExpects + 1) ∧
    (h.script[h.line]? = none → step ⟨W, c, h, .host :: ts, d⟩ = .next ⟨W, c, h, ts, d⟩)

/-- R153: one write records at most one error, and the checks come in this order: an unwritable or reserved address records
ACCESS, busy or not; a STATUS write passes every later check; a guarded register while BUSY = 1 records BUSY_WRITE, whatever the data;
an illegal command word while idle records ILLEGAL_CMD. -/
def Obligations.WriteErrorPriority : Prop :=
  ∀ (W : Width) (c : Chip W) (addr : PortAddr) (data : PortData W),
    (Claims.Unwritable addr → portWrite c addr data = Claims.recorded .access c) ∧
    (addr.toNat = 0x002 →
      (portWrite c addr data).status.err = true →
        c.status.err = true ∧ (portWrite c addr data).status.errCode = c.status.errCode) ∧
    (Claims.Guarded addr → c.status.busy = true → portWrite c addr data = Claims.recorded .busyWrite c) ∧
    (addr.toNat = 0x001 → c.status.busy = false → (∀ i, data.setWidth 32 ≠ encode i) →
      portWrite c addr data = Claims.recorded .illegalCmd c) ∧
    (Claims.Guarded addr → c.status.busy = false → (addr.toNat ≠ 0x001 ∨ ∃ i, data.setWidth 32 = encode i) →
      (portWrite c addr data).status.err = c.status.err ∧
      (portWrite c addr data).status.errCode = c.status.errCode) ∧
    (Claims.Unwritable addr ∨ addr.toNat = 0x002 ∨ Claims.Guarded addr)

/-- R49: a STATUS write, busy or not, clears DONE where data bit 1 is set, ERR and ERRCODE where data bit 2 is set, and does nothing
else. -/
def Obligations.StatusWriteClearsOnlyDoneAndErr : Prop :=
  ∀ (W : Width) (c : Chip W) (data : PortData W),
    portWrite c 0x002 data =
      { c with
        status :=
          { busy := c.status.busy
            done := c.status.done && !(data.toNat.testBit 1)
            err := c.status.err && !(data.toNat.testBit 2)
            errCode := if data.toNat.testBit 2 = true then .none else c.status.errCode } }

/-- R50, R51, R52: while idle, a write to ROUNDS or KEYLEN sets field [7:0] to data[7:0], one to A or B sets the register to data[W-1:0],
one to KEY[k] sets that entry to data[7:0], and none does anything else. The register then reads back as that number. -/
def Obligations.IdleWritesSetOneRegister : Prop :=
  ∀ (W : Width) (c : Chip W) (d : Nat) (data : PortData W), c.status.busy = false →
    (portWrite c 0x003 data = { c with rounds := data.setWidth 8 } ∧
      (portRead (portWrite c 0x003 data) d 0x003).toNat = data.toNat % 2 ^ 8) ∧
    (portWrite c 0x004 data = { c with keylen := data.setWidth 8 } ∧
      (portRead (portWrite c 0x004 data) d 0x004).toNat = data.toNat % 2 ^ 8) ∧
    (portWrite c 0x006 data = { c with a := data.setWidth W.bits } ∧
      (portRead (portWrite c 0x006 data) d 0x006).toNat = data.toNat % 2 ^ W.bits) ∧
    (portWrite c 0x007 data = { c with b := data.setWidth W.bits } ∧
      (portRead (portWrite c 0x007 data) d 0x007).toNat = data.toNat % 2 ^ W.bits) ∧
    (∀ (k : Nat) (hk : k < 255),
      portWrite c (BitVec.ofNat 10 (0x100 + k)) data = { c with key := c.key.set k (data.setWidth 8) hk } ∧
      (portRead (portWrite c (BitVec.ofNat 10 (0x100 + k)) data) d (BitVec.ofNat 10 (0x100 + k))).toNat =
        data.toNat % 2 ^ 8)

/-- Repeating a write to anything but CMD leaves the same state (20_memory.md §4 says so of ROUNDS, KEYLEN, A, B and KEY). -/
def Obligations.RepeatedWriteIsIdempotent : Prop :=
  ∀ (W : Width) (c : Chip W) (addr : PortAddr) (data : PortData W), addr.toNat ≠ 0x001 →
    portWrite (portWrite c addr data) addr data = portWrite c addr data

/-- While ERR = 1 no step changes ERR or ERRCODE, but for the host's STATUS write with bit 2 set and a reset: the first
error is kept (60_exceptions.md §1, §3). The host moves when its turn is next, and, by the model's choice, at an idle block
with no turn left (notes/assumptions/7.md). -/
def Obligations.FirstErrorIsKept : Prop :=
  ∀ (W : Width) (c c' : Chip W) (h h' : HostSide W) (ts ts' : List Turn) (d d' : Nat),
    step ⟨W, c, h, ts, d⟩ = .next ⟨W, c', h', ts', d'⟩ → c.status.err = true →
    ts.head? ≠ some .reset →
    ((ts.head? = some .host ∨ (ts = [] ∧ c.status.busy = false)) →
      ∀ data, h.script[h.line]? = some (.write 0x002 data) → data.getLsbD 2 = false) →
    c'.status.err = true ∧ c'.status.errCode = c.status.errCode

/-! Ordering and hazards. -/

/-- While a command is pending, no number of host turns changes anything of the block but STATUS, whose BUSY stays 1: the operands
at acceptance and at Complete are equal. The spec marks this as its own derivation (40_command.md §1, under R93). -/
def Obligations.OperandsStableWhilePending : Prop :=
  ∀ (W : Width) (c : Chip W) (h : HostSide W) (ts : List Turn) (d n : Nat), c.status.busy = true →
    ∃ (st : Status) (h' : HostSide W) (d' : Nat),
      run n ⟨W, c, h, List.replicate n .host ++ ts, d⟩ = .next ⟨W, { c with status := st }, h', ts, d'⟩ ∧
      st.busy = true

/-- Every pending command completes, unless a reset abandons it (40_command.md §1): whatever turns are still to be taken, the block is
idle after at most one step more than there are turns, and with no reset among them DONE = 1. That the engine moves when no
turn is left is the model's (notes/assumptions/7.md). -/
def Obligations.PendingCommandCompletes : Prop :=
  ∀ (W : Width) (c : Chip W) (h : HostSide W) (ts : List Turn) (d : Nat),
    c.Legal → c.status.busy = true →
    ∃ k ≤ ts.length + 1, ∃ c' h' ts' d', run k ⟨W, c, h, ts, d⟩ = .next ⟨W, c', h', ts', d'⟩ ∧
      c'.status.busy = false ∧ (.reset ∉ ts → c'.status.done = true)

/-- A guarded write without WAIT has two outcomes (70_reset_and_hazards.md §3, under R176, which the spec marks as derived): before Complete it is dropped and recorded
as BUSY_WRITE, and the command then completes; after Complete it takes effect on the idle block the command left. -/
def Obligations.UnwaitedWriteHasTwoOutcomes : Prop :=
  ∀ (W : Width) (c : Chip W) (h : HostSide W) (d : Nat) (i : Instr) (addr : PortAddr) (data : PortData W),
    c.status.busy = true → c.pendOp = opcode i → h.script[h.line]? = some (.write addr data) → Claims.Guarded addr →
    run 2 ⟨W, c, h, [.host, .engine], d⟩ =
      exec i ⟨W, Claims.recorded .busyWrite c, { h with line := h.line + 1 }, [], d⟩ ∧
    ∃ c₁ d₁, Claims.Completes i c h [.host] d c₁ d₁ ∧ c₁.status.busy = false ∧
      run 2 ⟨W, c, h, [.engine, .host], d⟩ =
        .next ⟨W, portWrite c₁ addr data, { h with line := h.line + 1 }, [], d₁⟩

/-! Reset, and what holds throughout. -/

/-- R171: a reset, in any state, leaves STATUS, ROUNDS, KEYLEN, TLEN, A and B at 0, nothing pending, ID its constant and CMD reading 0; so
does State.reset, at W = 32. What KEY, S and L then hold is left open. -/
def Obligations.ResetValues : Prop :=
  (∀ (W : Width) (c : Chip W) (h : HostSide W) (ts : List Turn) (d : Nat),
    ∃ c' d', step ⟨W, c, h, .reset :: ts, d⟩ = .next ⟨W, c', h, ts, d'⟩ ∧
      c'.status.word = 0 ∧ c'.status.busy = false ∧ c'.rounds = 0 ∧ c'.keylen = 0 ∧ c'.tlen = 0 ∧ c'.a = 0 ∧ c'.b = 0 ∧
      (∀ draw, (portRead c' draw 0x000).toNat = W.bits + 0xFF00 + 0xFF0000 ∧ portRead c' draw 0x001 = 0)) ∧
  State.reset.width = .w32 ∧ State.reset.chip.status.word = 0 ∧ State.reset.chip.rounds = 0 ∧
  State.reset.chip.keylen = 0 ∧ State.reset.chip.tlen = 0 ∧ State.reset.chip.a.toNat = 0 ∧ State.reset.chip.b.toNat = 0 ∧
  (portRead State.reset.chip 0 0x000).toNat = 0x00FFFF20

/-- A reset abandons a pending command (70_reset_and_hazards.md §1): afterwards no number of engine turns does anything, and BUSY
and DONE stay 0. -/
def Obligations.ResetAbandonsPendingCommand : Prop :=
  ∀ (W : Width) (c : Chip W) (h : HostSide W) (ts : List Turn) (d n : Nat),
    ∃ c' d', step ⟨W, c, h, .reset :: (List.replicate n .engine ++ ts), d⟩ =
        .next ⟨W, c', h, List.replicate n .engine ++ ts, d'⟩ ∧
      c'.status.busy = false ∧ c'.status.done = false ∧
      run n ⟨W, c', h, List.replicate n .engine ++ ts, d'⟩ = .next ⟨W, c', h, ts, d'⟩

/-- The state after reset is legal, at every width (10_state.md §2). -/
def Obligations.ResetStateLegal : Prop := State.reset.Legal ∧ ∀ W, (State.resetAt W).Legal

/-- Every step keeps the status invariants, which the spec marks as derived (10_state.md §2, under R24), and that TLEN is 0 or an even number from 2 to 512, and that a pending opcode is a
command's. -/
def Obligations.StepKeepsLegal : Prop :=
  ∀ s t : State, s.Legal → step s = .next t →
    t.Legal ∧ t.chip.status.errCode.bits.toNat ≤ 3

/-- The width is never changed (41_wordops.md §4), so ID reads the same for ever, and from a legal state no step stops. -/
def Obligations.StepKeepsWidthAndNeverStops : Prop :=
  ∀ s : State, s.Legal →
    ∃ t, step s = .next t ∧ t.width = s.width ∧
      ∀ d, (portRead t.chip d 0x000).toNat = (portRead s.chip d 0x000).toNat

/-- Once a run has ended, the script over and no command pending, no turn of the host or the engine changes anything but the list
of turns (70_reset_and_hazards.md §5). That the machine, with no turn left, steps to itself is the model's choice
(notes/assumptions/7.md). -/
def Obligations.EndedRunStays : Prop :=
  ∀ (s : State) (n : Nat), s.Ended → .reset ∉ s.turns → run n s = .next { s with turns := s.turns.drop n }

/-- The end of a run (70_reset_and_hazards.md §5): runToEnd gives the first state from s on that has ended, and no other;
and a script of one bare command ends at that command's Complete, however many turns of the host come before it and whatever
turns, a reset among them, are left. -/
def Obligations.RunEndsAtFirstPoint : Prop :=
  (∀ (s t : State) (n : Nat),
    runToEnd n s = some t ↔
      t.Ended ∧ ∃ k ≤ n, run k s = .next t ∧ ∀ j < k, ∃ u, run j s = .next u ∧ ¬ u.Ended) ∧
  (∀ (W : Width) (c : Chip W) (h : HostSide W) (ts : List Turn) (d n : Nat) (i : Instr), c.status.busy = false →
    ∃ c' h' d',
      runToEnd (n + 2)
          (State.withScript ⟨W, c, h, .host :: (List.replicate n .host ++ .engine :: ts), d⟩
            (assemble [Stmt.command i])) =
        some ⟨W, c', h', ts, d'⟩ ∧
      Claims.Completes i { c with pendOp := opcode i, status := { c.status with busy := true, done := false } } h' ts d
        c' d')

/-! Host scripts. -/

/-- R89: the assembler's register names stand for the addresses of the map, an index out of range has no address and a line that uses it
assembles to nothing, and a raw address stands for itself. -/
def Obligations.AssemblerNamesRegisters : Prop :=
  (∀ (k : Nat) (hk : k < 255), ∃ addr, Target.addr (.key k) = some addr ∧ addr.toNat = 0x100 + k ∧ portReg addr = .key ⟨k, hk⟩) ∧
  (∀ (k : Nat) (hk : k < 512), ∃ addr, Target.addr (.s k) = some addr ∧ addr.toNat = 0x200 + k ∧ portReg addr = .s ⟨k, hk⟩) ∧
  (∀ t : Target, t.addr = none ↔ t.wellFormed = false) ∧
  (∀ (W : Width) (t : Target) (value : PortData W) (name : Option HostName), t.wellFormed = false →
    assemble [Stmt.wr t value] = [] ∧ assemble [(Stmt.rd t name : Stmt W)] = []) ∧
  (∀ addr, Target.addr (.raw addr) = some addr) ∧
  Target.addr .id = some 0x000 ∧ Target.addr .cmd = some 0x001 ∧ Target.addr .status = some 0x002 ∧
  Target.addr .rounds = some 0x003 ∧ Target.addr .keylen = some 0x004 ∧ Target.addr .tlen = some 0x005 ∧
  Target.addr .a = some 0x006 ∧ Target.addr .b = some 0x007 ∧
  portReg 0x000 = .id ∧ portReg 0x001 = .cmd ∧ portReg 0x002 = .status ∧ portReg 0x003 = .rounds ∧
  portReg 0x004 = .keylen ∧ portReg 0x005 = .tlen ∧ portReg 0x006 = .a ∧ portReg 0x007 = .b

/-- LOADKEY of n ≤ 255 numbers makes n + 1 writes that leave an idle block with KEYLEN = n, the low bytes of those numbers as its
key, and nothing else changed (30_encoding.md §6). The run is over an empty list of turns, where that the host moves is the
model's choice (notes/assumptions/7.md), as is which numbers LOADKEY takes (notes/assumptions/15.md). -/
def Obligations.LoadKeySetsTheKey : Prop :=
  ∀ (W : Width) (c : Chip W) (h : HostSide W) (d : Nat) (values : List (PortData W)),
    c.status.busy = false → values.length ≤ 255 → h.script = assemble [Stmt.loadKey values] → h.line = 0 →
    ∃ c', run (values.length + 1) ⟨W, c, h, [], d⟩ = .next ⟨W, c', { h with line := values.length + 1 }, [], d⟩ ∧
      h.script.length = values.length + 1 ∧
      Claims.IsKey c' (values.map (·.setWidth 8)) ∧
      (∀ (k : Nat) (hk : k < 255), values.length ≤ k → c'.key[k]'hk = c.key[k]'hk) ∧
      c' = { c with keylen := c'.keylen, key := c'.key }

/-- RUN of a command at an idle block writes CMD, lets the command complete, reads STATUS as BUSY = 0 and ends after its last line
(30_encoding.md §6). The order of turns here is the model's when the list of turns is empty (notes/assumptions/7.md). -/
def Obligations.RunScriptCompletesTheCommand : Prop :=
  ∀ (W : Width) (c : Chip W) (h : HostSide W) (d : Nat) (i : Instr),
    c.status.busy = false → h.script = assemble [Stmt.run i] → h.line = 0 →
    ∃ c' d' h', Claims.Completes i
        { c with pendOp := opcode i, status := { c.status with busy := true, done := false } }
        { h with line := 1 } [] d c' d' ∧
      run 4 ⟨W, c, h, [], d⟩ = .next ⟨W, c', h', [], d' + 1⟩ ∧
      h'.line = 3 ∧ h'.script.length = 3 ∧ c'.status.busy = false ∧ c'.status.done = true ∧
      State.Ended ⟨W, c', h', [], d' + 1⟩
end

