-- ==== Sys2Proof/Laws/KeySchedule.lean ====
section
/-! SUPPORT. The sizes of what key expansion builds, and the entries of the table it writes back. -/

namespace Sys2Proof.Machine

variable {W : Width}

@[simp] theorem packBytes_length (key : List Byte) (n : Nat) (l : List (Word W)) :
    (packBytes key n l).length = l.length := by
  induction n generalizing l with
  | zero => rfl
  | succ n ih => simp [packBytes, ih]

@[simp] theorem progression_length (x : Word W) (n : Nat) : (progression x n).length = n := by
  induction n generalizing x with
  | zero => rfl
  | succ n ih => simp [progression, ih]

@[simp] theorem mixStep_s_length (t c : Nat) (m : MixState W) : (mixStep t c m).s.length = m.s.length := by
  simp [mixStep]

@[simp] theorem mixStep_l_length (t c : Nat) (m : MixState W) : (mixStep t c m).l.length = m.l.length := by
  simp [mixStep]

@[simp] theorem mixLoop_s_length (t c n : Nat) (m : MixState W) : (mixLoop t c n m).s.length = m.s.length := by
  induction n generalizing m with
  | zero => rfl
  | succ n ih => simp [mixLoop, ih]

@[simp] theorem mixLoop_l_length (t c n : Nat) (m : MixState W) : (mixLoop t c n m).l.length = m.l.length := by
  induction n generalizing m with
  | zero => rfl
  | succ n ih => simp [mixLoop, ih]

theorem mixLoop_succ (t c n : Nat) (m : MixState W) : mixLoop t c (n + 1) m = mixStep t c (mixLoop t c n m) := by
  induction n generalizing m with
  | zero => rfl
  | succ n ih => exact ih (mixStep t c m)

/-- Entry k of the table written back: the new one where there is one, else the old one (R127). -/
theorem writeSubkeys_getElem (T : List (Word W)) (s : Vector (Word W) 512) (k : Nat) (hk : k < 512) :
    (writeSubkeys T s)[k] = (T[k]?).getD s[k] := by simp [writeSubkeys]

@[simp] theorem keyBytes_length (c : Chip W) : (keyBytes c).length = c.keylen.toNat := by
  have : c.keylen.toNat < 256 := c.keylen.isLt
  simp [keyBytes]; omega

end Sys2Proof.Machine
end

