-- ==== Sys2Proof/Laws/Ops.lean ====
section
/-! SUPPORT. The Word operations in terms of numbers and of the library's rotations. -/

namespace Sys2Proof.Machine

theorem wrappingAdd_toNat {w : Nat} (a b : BitVec w) :
    (wrappingAdd a b).toNat = (a.toNat + b.toNat) % 2 ^ w := BitVec.toNat_add a b

theorem wrappingSub_toNat {w : Nat} (a b : BitVec w) :
    (wrappingSub a b).toNat = (2 ^ w - b.toNat + a.toNat) % 2 ^ w := BitVec.toNat_sub a b

@[simp] theorem wrappingSub_wrappingAdd {w : Nat} (a b : BitVec w) : wrappingSub (wrappingAdd a b) b = a :=
  BitVec.add_sub_cancel a b

@[simp] theorem wrappingAdd_wrappingSub {w : Nat} (a b : BitVec w) : wrappingAdd (wrappingSub a b) b = a :=
  BitVec.sub_add_cancel a b

/-- The spec's left rotation is the library's (R110). -/
theorem rotl_eq_rotateLeft {w : Nat} (x : BitVec w) (y : Nat) : rotl x y = x.rotateLeft y := by
  simp only [rotl, BitVec.rotateLeft, BitVec.rotateLeftAux]
  split
  · next h => rw [h, BitVec.shiftLeft_zero, Nat.sub_zero, BitVec.ushiftRight_eq_zero (Nat.le_refl w), BitVec.or_zero]
  · rfl

/-- The spec's right rotation is the library's (R111). -/
theorem rotr_eq_rotateRight {w : Nat} (x : BitVec w) (y : Nat) : rotr x y = x.rotateRight y := by
  simp only [rotr, BitVec.rotateRight, BitVec.rotateRightAux]
  split
  · next h => rw [h, BitVec.ushiftRight_zero, Nat.sub_zero, BitVec.shiftLeft_eq_zero (Nat.le_refl w), BitVec.or_zero]
  · rfl

end Sys2Proof.Machine
end

