-- ==== Sys2Proof/Laws/PerInstr.lean ====
section
/-! SUPPORT. The family Encoding: each command's word, as syntax (spec/30_encoding.md R80, R82). -/

namespace Sys2Proof.Laws.Encoding

/-- The command's word is legal, has RSV = 0, and carries its opcode in OPC. -/
def Statement (i : Instr) : Prop :=
  CmdWord.wellFormed (encode i) = true ∧ rsvField (encode i) = 0 ∧ opcField (encode i) = opcode i

theorem nop : Statement .nop := by unfold Statement; decide
theorem expand : Statement .expand := by unfold Statement; decide
theorem encrypt : Statement .encrypt := by unfold Statement; decide
theorem decrypt : Statement .decrypt := by unfold Statement; decide
theorem add : Statement .add := by unfold Statement; decide
theorem sub : Statement .sub := by unfold Statement; decide
theorem rotl : Statement .rotl := by unfold Statement; decide
theorem rotr : Statement .rotr := by unfold Statement; decide

end Sys2Proof.Laws.Encoding
end

