-- ==== Sys2Proof/Laws/State.lean ====
section
/-! SUPPORT. What each update of the state leaves in each field, so that no proof unfolds an update. -/

namespace Sys2Proof.Machine

variable {W : Width}

@[simp] theorem Status.accepted_busy (st : Status) : st.accepted.busy = true := rfl
@[simp] theorem Status.accepted_done (st : Status) : st.accepted.done = false := rfl
@[simp] theorem Status.accepted_err (st : Status) : st.accepted.err = st.err := rfl
@[simp] theorem Status.accepted_errCode (st : Status) : st.accepted.errCode = st.errCode := rfl

@[simp] theorem Status.completed_busy (st : Status) : st.completed.busy = false := rfl
@[simp] theorem Status.completed_done (st : Status) : st.completed.done = true := rfl
@[simp] theorem Status.completed_err (st : Status) : st.completed.err = st.err := rfl
@[simp] theorem Status.completed_errCode (st : Status) : st.completed.errCode = st.errCode := rfl

@[simp] theorem Status.written_busy (st : Status) (d e : Bool) : (st.written d e).busy = st.busy := rfl
@[simp] theorem Status.written_done (st : Status) (d e : Bool) :
    (st.written d e).done = if d then false else st.done := rfl
@[simp] theorem Status.written_err (st : Status) (d e : Bool) :
    (st.written d e).err = if e then false else st.err := rfl
@[simp] theorem Status.written_errCode (st : Status) (d e : Bool) :
    (st.written d e).errCode = if e then .none else st.errCode := rfl

@[simp] theorem raiseError_busy (e : ErrCode) (c : Chip W) : (raiseError e c).status.busy = c.status.busy := rfl
@[simp] theorem raiseError_done (e : ErrCode) (c : Chip W) : (raiseError e c).status.done = c.status.done := rfl
@[simp] theorem raiseError_err (e : ErrCode) (c : Chip W) : (raiseError e c).status.err = true := rfl
@[simp] theorem raiseError_errCode (e : ErrCode) (c : Chip W) :
    (raiseError e c).status.errCode = if c.status.err then c.status.errCode else e := rfl
@[simp] theorem raiseError_rounds (e : ErrCode) (c : Chip W) : (raiseError e c).rounds = c.rounds := rfl
@[simp] theorem raiseError_keylen (e : ErrCode) (c : Chip W) : (raiseError e c).keylen = c.keylen := rfl
@[simp] theorem raiseError_tlen (e : ErrCode) (c : Chip W) : (raiseError e c).tlen = c.tlen := rfl
@[simp] theorem raiseError_a (e : ErrCode) (c : Chip W) : (raiseError e c).a = c.a := rfl
@[simp] theorem raiseError_b (e : ErrCode) (c : Chip W) : (raiseError e c).b = c.b := rfl
@[simp] theorem raiseError_key (e : ErrCode) (c : Chip W) : (raiseError e c).key = c.key := rfl
@[simp] theorem raiseError_s (e : ErrCode) (c : Chip W) : (raiseError e c).s = c.s := rfl
@[simp] theorem raiseError_l (e : ErrCode) (c : Chip W) : (raiseError e c).l = c.l := rfl
@[simp] theorem raiseError_pendOp (e : ErrCode) (c : Chip W) : (raiseError e c).pendOp = c.pendOp := rfl

@[simp] theorem statusWrite_status (c : Chip W) (data : PortData W) :
    (statusWrite c data).status = c.status.written (data.getLsbD 1) (data.getLsbD 2) := rfl
@[simp] theorem statusWrite_rounds (c : Chip W) (data : PortData W) : (statusWrite c data).rounds = c.rounds := rfl
@[simp] theorem statusWrite_keylen (c : Chip W) (data : PortData W) : (statusWrite c data).keylen = c.keylen := rfl
@[simp] theorem statusWrite_tlen (c : Chip W) (data : PortData W) : (statusWrite c data).tlen = c.tlen := rfl
@[simp] theorem statusWrite_a (c : Chip W) (data : PortData W) : (statusWrite c data).a = c.a := rfl
@[simp] theorem statusWrite_b (c : Chip W) (data : PortData W) : (statusWrite c data).b = c.b := rfl
@[simp] theorem statusWrite_key (c : Chip W) (data : PortData W) : (statusWrite c data).key = c.key := rfl
@[simp] theorem statusWrite_s (c : Chip W) (data : PortData W) : (statusWrite c data).s = c.s := rfl
@[simp] theorem statusWrite_l (c : Chip W) (data : PortData W) : (statusWrite c data).l = c.l := rfl
@[simp] theorem statusWrite_pendOp (c : Chip W) (data : PortData W) : (statusWrite c data).pendOp = c.pendOp := rfl

@[simp] theorem storeTable_status (c : Chip W) (T : List (Word W)) (d : Nat) :
    (storeTable c T d).status = c.status := rfl
@[simp] theorem storeTable_rounds (c : Chip W) (T : List (Word W)) (d : Nat) :
    (storeTable c T d).rounds = c.rounds := rfl
@[simp] theorem storeTable_keylen (c : Chip W) (T : List (Word W)) (d : Nat) :
    (storeTable c T d).keylen = c.keylen := rfl
@[simp] theorem storeTable_tlen (c : Chip W) (T : List (Word W)) (d : Nat) :
    (storeTable c T d).tlen = BitVec.ofNat 10 (tableSize (roundCount c)) := rfl
@[simp] theorem storeTable_a (c : Chip W) (T : List (Word W)) (d : Nat) : (storeTable c T d).a = c.a := rfl
@[simp] theorem storeTable_b (c : Chip W) (T : List (Word W)) (d : Nat) : (storeTable c T d).b = c.b := rfl
@[simp] theorem storeTable_key (c : Chip W) (T : List (Word W)) (d : Nat) : (storeTable c T d).key = c.key := rfl
@[simp] theorem storeTable_s (c : Chip W) (T : List (Word W)) (d : Nat) :
    (storeTable c T d).s = writeSubkeys T c.s := rfl
@[simp] theorem storeTable_pendOp (c : Chip W) (T : List (Word W)) (d : Nat) :
    (storeTable c T d).pendOp = c.pendOp := rfl

@[simp] theorem setBlock_a (c : Chip W) (p : Pair W) : (setBlock c p).a = p.1 := rfl
@[simp] theorem setBlock_b (c : Chip W) (p : Pair W) : (setBlock c p).b = p.2 := rfl
@[simp] theorem setBlock_status (c : Chip W) (p : Pair W) : (setBlock c p).status = c.status := rfl
@[simp] theorem setBlock_rounds (c : Chip W) (p : Pair W) : (setBlock c p).rounds = c.rounds := rfl
@[simp] theorem setBlock_keylen (c : Chip W) (p : Pair W) : (setBlock c p).keylen = c.keylen := rfl
@[simp] theorem setBlock_tlen (c : Chip W) (p : Pair W) : (setBlock c p).tlen = c.tlen := rfl
@[simp] theorem setBlock_key (c : Chip W) (p : Pair W) : (setBlock c p).key = c.key := rfl
@[simp] theorem setBlock_s (c : Chip W) (p : Pair W) : (setBlock c p).s = c.s := rfl
@[simp] theorem setBlock_l (c : Chip W) (p : Pair W) : (setBlock c p).l = c.l := rfl
@[simp] theorem setBlock_pendOp (c : Chip W) (p : Pair W) : (setBlock c p).pendOp = c.pendOp := rfl

@[simp] theorem Chip.atReset_status (d : Nat) : (Chip.atReset W d).status = .atReset := rfl
@[simp] theorem Chip.atReset_rounds (d : Nat) : (Chip.atReset W d).rounds = 0 := rfl
@[simp] theorem Chip.atReset_keylen (d : Nat) : (Chip.atReset W d).keylen = 0 := rfl
@[simp] theorem Chip.atReset_tlen (d : Nat) : (Chip.atReset W d).tlen = 0 := rfl
@[simp] theorem Chip.atReset_a (d : Nat) : (Chip.atReset W d).a = 0 := rfl
@[simp] theorem Chip.atReset_b (d : Nat) : (Chip.atReset W d).b = 0 := rfl
@[simp] theorem Chip.atReset_pendOp (d : Nat) : (Chip.atReset W d).pendOp = 0 := rfl

@[simp] theorem HostSide.goto_line (h : HostSide W) (n : Nat) : (h.goto n).line = n := rfl
@[simp] theorem HostSide.goto_script (h : HostSide W) (n : Nat) : (h.goto n).script = h.script := rfl
@[simp] theorem HostSide.goto_names (h : HostSide W) (n : Nat) : (h.goto n).names = h.names := rfl
@[simp] theorem HostSide.goto_failedExpects (h : HostSide W) (n : Nat) :
    (h.goto n).failedExpects = h.failedExpects := rfl

@[simp] theorem HostSide.bind_script (h : HostSide W) (n : Option HostName) (v : PortData W) :
    (h.bind n v).script = h.script := by cases n <;> rfl
@[simp] theorem HostSide.bind_line (h : HostSide W) (n : Option HostName) (v : PortData W) :
    (h.bind n v).line = h.line := by cases n <;> rfl
@[simp] theorem HostSide.bind_failedExpects (h : HostSide W) (n : Option HostName) (v : PortData W) :
    (h.bind n v).failedExpects = h.failedExpects := by cases n <;> rfl

@[simp] theorem HostSide.check_script (h : HostSide W) (n : HostName) (v : ExpectValue W) :
    (h.check n v).script = h.script := rfl
@[simp] theorem HostSide.check_line (h : HostSide W) (n : HostName) (v : ExpectValue W) :
    (h.check n v).line = h.line + 1 := rfl
@[simp] theorem HostSide.check_names (h : HostSide W) (n : HostName) (v : ExpectValue W) :
    (h.check n v).names = h.names := rfl

@[simp] theorem HostSide.expected_number (h : HostSide W) (v : PortData W) : h.expected (.number v) = v := rfl
@[simp] theorem HostSide.expected_name (h : HostSide W) (n : HostName) : h.expected (.name n) = h.value n := rfl

/-- A name just bound has the value it was bound to. -/
@[simp] theorem HostSide.value_bind (h : HostSide W) (n : HostName) (v : PortData W) :
    (h.bind (some n) v).value n = v := by simp [HostSide.bind, HostSide.value]

@[simp] theorem HostSide.value_goto (h : HostSide W) (n : HostName) (k : Nat) :
    (h.goto k).value n = h.value n := rfl

@[simp] theorem State.withScript_chip (s : State) (script : List (HostLine s.width)) :
    (s.withScript script).chip = s.chip := rfl
@[simp] theorem State.withScript_turns (s : State) (script : List (HostLine s.width)) :
    (s.withScript script).turns = s.turns := rfl
@[simp] theorem State.withScript_script (s : State) (script : List (HostLine s.width)) :
    (s.withScript script).host.script = script := rfl
@[simp] theorem State.withScript_line (s : State) (script : List (HostLine s.width)) :
    (s.withScript script).host.line = 0 := rfl

/-- Complete always answers a next state, in which only the block's registers are new (R91). -/
theorem complete_eq (c' : Chip W) (c : Chip W) (h : HostSide W) (ts : List Turn) (d : Nat) :
    complete ⟨W, c, h, ts, d⟩ c' = .next ⟨W, { c' with status := c'.status.completed }, h, ts, d⟩ := rfl

end Sys2Proof.Machine
end

