-- ==== Sys2Proof/Laws/Port.lean ====
section
/-! SUPPORT. What an address names, and everything a port write can do. -/

namespace Sys2Proof.Machine

variable {W : Width}

theorem portReg_key (k : Nat) (hk : k < 255) : portReg (BitVec.ofNat 10 (0x100 + k)) = .key ⟨k, hk⟩ := by
  have h : (0x100 + k) % 2 ^ 10 = 0x100 + k := Nat.mod_eq_of_lt (by omega)
  simp only [portReg, BitVec.toNat_ofNat, h]
  rw [dif_neg (by omega), if_pos (by omega), dif_pos (by omega)]
  simp

theorem portReg_s (k : Nat) (hk : k < 512) : portReg (BitVec.ofNat 10 (0x200 + k)) = .s ⟨k, hk⟩ := by
  have h : (0x200 + k) % 2 ^ 10 = 0x200 + k := Nat.mod_eq_of_lt (by omega)
  simp only [portReg, BitVec.toNat_ofNat, h]
  rw [dif_pos (by omega)]
  simp

/-- A register is STATUS only at address 0x002. -/
theorem portReg_eq_status_iff : ∀ addr : PortAddr, portReg addr = .status ↔ addr = 0x002 := by decide +kernel

/-- A register is CMD only at address 0x001. -/
theorem portReg_eq_cmd_iff : ∀ addr : PortAddr, portReg addr = .cmd ↔ addr = 0x001 := by decide +kernel

theorem portReg_table_addr : ∀ addr : PortAddr,
    (match portReg addr with
      | .key k => addr == BitVec.ofNat 10 (0x100 + k.val)
      | .s k => addr == BitVec.ofNat 10 (0x200 + k.val)
      | _ => true) = true := by decide +kernel

/-- The one address of KEY[k]. -/
theorem addr_of_portReg_key {addr : PortAddr} {k : Fin 255} (h : portReg addr = .key k) :
    addr = BitVec.ofNat 10 (0x100 + k.val) := by
  have := portReg_table_addr addr
  rw [h] at this
  exact eq_of_beq this

/-- The one address of S[k]. -/
theorem addr_of_portReg_s {addr : PortAddr} {k : Fin 512} (h : portReg addr = .s k) :
    addr = BitVec.ofNat 10 (0x200 + k.val) := by
  have := portReg_table_addr addr
  rw [h] at this
  exact eq_of_beq this

/-- Everything a port write can do: one of four outcomes, in the order of the checks (R47). -/
theorem portWrite_cases (c : Chip W) (addr : PortAddr) (data : PortData W) :
    ((portReg addr).writable = false ∧ portWrite c addr data = raiseError .access c) ∨
    (portReg addr = .status ∧ portWrite c addr data = statusWrite c data) ∨
    ((portReg addr).writable = true ∧ portReg addr ≠ .status ∧ c.status.busy = true ∧
      portWrite c addr data = raiseError .busyWrite c) ∨
    ((portReg addr).writable = true ∧ portReg addr ≠ .status ∧ c.status.busy = false ∧
      portWrite c addr data = writeReg c data (portReg addr)) := by
  unfold portWrite guardedWrite
  rcases hw : (portReg addr).writable with _ | _
  · simp
  · by_cases hs : portReg addr = .status
    · simp [hs]
    · rcases hb : c.status.busy with _ | _ <;> simp [hs]

/-- Everything a CMD write can do to an idle block (R90). -/
theorem acceptCommand_cases (c : Chip W) (w : CmdWord) :
    (∃ e, decode w = .error e ∧ acceptCommand c w = raiseError .illegalCmd c) ∨
    (∃ i, decode w = .ok i ∧ acceptCommand c w = { c with pendOp := opcField w, status := c.status.accepted }) := by
  unfold acceptCommand
  rcases h : decode w with e | i <;> simp

end Sys2Proof.Machine
end

