-- ==== Sys2Proof/Laws/Step.lean ====
section
/-! SUPPORT. Everything a step can do. -/

namespace Sys2Proof.Machine

variable {W : Width}

/-- The engine's turn at a busy block whose latch holds a command's opcode (R91). -/
theorem engineTurn_busy {c : Chip W} {i : Instr} (h : HostSide W) (ts : List Turn) (d : Nat)
    (hb : c.status.busy = true) (hi : decodeOpcode c.pendOp = some i) :
    engineTurn ⟨W, c, h, ts, d⟩ = exec i ⟨W, c, h, ts, d⟩ := by simp [engineTurn, hb, hi]

/-- The engine's turn at an idle block passes (R91). -/
theorem engineTurn_idle {c : Chip W} (h : HostSide W) (ts : List Turn) (d : Nat) (hb : c.status.busy = false) :
    engineTurn ⟨W, c, h, ts, d⟩ = .next ⟨W, c, h, ts, d⟩ := by simp [engineTurn, hb]

/-- If the engine's turn answers a next state, it completed the pending command or had nothing to do. -/
theorem engineTurn_cases {c : Chip W} {h : HostSide W} {ts : List Turn} {d : Nat} {t : State}
    (he : engineTurn ⟨W, c, h, ts, d⟩ = .next t) :
    (c.status.busy = true ∧ ∃ i, decodeOpcode c.pendOp = some i ∧ exec i ⟨W, c, h, ts, d⟩ = .next t) ∨
    (c.status.busy = false ∧ t = ⟨W, c, h, ts, d⟩) := by
  rcases hb : c.status.busy with _ | _
  · rw [engineTurn_idle h ts d hb] at he
    cases he
    exact .inr ⟨rfl, rfl⟩
  · rcases hi : decodeOpcode c.pendOp with _ | i
    · simp [engineTurn, hb, hi] at he
    · rw [engineTurn_busy h ts d hb hi] at he
      exact .inl ⟨rfl, i, rfl, he⟩

/-- If a step answers a next state, the host had its turn, the block was reset, the engine completed the pending command,
or the engine had nothing to do. -/
theorem step_cases {c : Chip W} {h : HostSide W} {ts : List Turn} {d : Nat} {t : State}
    (hs : step ⟨W, c, h, ts, d⟩ = .next t) :
    (∃ ts', (ts = .host :: ts' ∨ (ts = [] ∧ ts' = [] ∧ c.status.busy = false)) ∧
      t = hostTurn ⟨W, c, h, ts', d⟩) ∨
    (∃ ts', ts = .reset :: ts' ∧ t = ⟨W, .atReset W d, h, ts', d + 1⟩) ∨
    (∃ ts' i, (ts = .engine :: ts' ∨ (ts = [] ∧ ts' = [])) ∧ c.status.busy = true ∧
      decodeOpcode c.pendOp = some i ∧ exec i ⟨W, c, h, ts', d⟩ = .next t) ∨
    (∃ ts', ts = .engine :: ts' ∧ c.status.busy = false ∧ t = ⟨W, c, h, ts', d⟩) := by
  rcases ts with _ | ⟨_ | _ | _, ts'⟩
  · rcases hb : c.status.busy with _ | _
    · simp only [step, hb] at hs
      cases hs
      exact .inl ⟨[], .inr ⟨rfl, rfl, rfl⟩, rfl⟩
    · simp only [step, hb, if_true] at hs
      rcases engineTurn_cases hs with ⟨_, i, hi, he⟩ | ⟨hb', _⟩
      · exact .inr (.inr (.inl ⟨[], i, .inr ⟨rfl, rfl⟩, rfl, hi, he⟩))
      · rw [hb] at hb'
        cases hb'
  · cases hs
    exact .inl ⟨ts', .inl rfl, rfl⟩
  · rcases engineTurn_cases (show engineTurn ⟨W, c, h, ts', d⟩ = .next t from hs) with ⟨hb, i, hi, he⟩ | ⟨hb, ht⟩
    · exact .inr (.inr (.inl ⟨ts', i, .inl rfl, hb, hi, he⟩))
    · exact .inr (.inr (.inr ⟨ts', rfl, hb, ht⟩))
  · cases hs
    exact .inr (.inl ⟨ts', rfl, rfl⟩)

/-- The host's turn changes the block only where its line is a write, and then by that port write alone. -/
theorem hostTurn_cases (c : Chip W) (h : HostSide W) (ts : List Turn) (d : Nat) :
    ∃ c' h' d', hostTurn ⟨W, c, h, ts, d⟩ = ⟨W, c', h', ts, d'⟩ ∧ h'.script = h.script ∧
      (c' = c ∨ ∃ addr data, h.script[h.line]? = some (.write addr data) ∧ c' = portWrite c addr data) := by
  rcases hl : h.script[h.line]? with _ | line
  · exact ⟨c, h, d, by simp [hostTurn, hl], rfl, .inl rfl⟩
  · cases line with
    | write addr data =>
      exact ⟨portWrite c addr data, h.goto (h.line + 1), d, by simp only [hostTurn, hl]; rfl, rfl, .inr ⟨addr, data, rfl, rfl⟩⟩
    | read addr name => exact ⟨c, _, d + 1, by simp only [hostTurn, hl]; rfl, by simp, .inl rfl⟩
    | branch name bit value target =>
      exact ⟨c, h.goto (if (h.value name).getLsbD bit = value then target else h.line + 1), d, by simp only [hostTurn, hl]; rfl, rfl, .inl rfl⟩
    | expect name value =>
      exact ⟨c, h.check name value, d, by simp only [hostTurn, hl]; rfl, rfl, .inl rfl⟩

end Sys2Proof.Machine
end

