-- ==== Sys2Proof/Laws/Run.lean ====
section
/-! SUPPORT. Runs of several steps, one step at a time. -/

namespace Sys2Proof.Machine

@[simp] theorem run_zero (s : State) : run 0 s = .next s := rfl

/-- A run whose first step answers a next state goes on from it. -/
theorem run_succ {s t : State} (n : Nat) (h : step s = .next t) : run (n + 1) s = run n t := by
  have : core.step s = .next t := h
  simp only [run, Host.Core.run, this]
  rfl

/-- A run that has ended is its own end state. -/
@[simp] theorem runToEnd_ended {s : State} (n : Nat) (h : s.Ended) : runToEnd n s = some s := by
  cases n <;> exact if_pos h

/-- A run that has not ended goes on by a step. -/
theorem runToEnd_succ {s t : State} (n : Nat) (h : ¬ s.Ended) (hs : step s = .next t) :
    runToEnd (n + 1) s = runToEnd n t := by
  simp only [runToEnd, if_neg h, hs]

end Sys2Proof.Machine
end

