-- ==== Sys2Proof/Tests/Slice0.lean ====
section
/-! SUPPORT. Small tests. Every expected value is the spec's: the place in spec/ is named with each group. The second part
shows, for each obligation with hypotheses, a state that meets them. -/

namespace Sys2Proof.Tests

open Sys2Proof.Machine

/-- An idle block at W = 32 with every register 0. -/
def idle32 : Chip .w32 where
  status := .atReset
  rounds := 0
  keylen := 0
  tlen := 0
  a := 0
  b := 0
  key := .replicate 255 0
  s := .replicate 512 0
  l := .replicate _ 0
  pendOp := 0

/-- The block with A and B as given. -/
def withAB (a b : BitVec 32) : Chip .w32 := { idle32 with a := a, b := b }

/-- The block with key 01 02 03 04 05, r = 1, A = 0x01234567 and B = 0x89ABCDEF: 95_test_vectors.md program P2. -/
def p2 : Chip .w32 :=
  { idle32 with
    rounds := 1
    keylen := 5
    a := 0x01234567
    b := 0x89ABCDEF
    key := ((((idle32.key.set 0 1).set 1 2).set 2 3).set 3 4).set 4 5 }

/-- The block with the command of opcode `op` pending. -/
def busy (op : BitVec 4) : Chip .w32 :=
  { idle32 with status := { busy := true, done := false, err := false, errCode := .none }, pendOp := op }

/-- The block with STATUS as given. -/
def withStatus (busy done err : Bool) (errCode : ErrCode) : Chip .w32 :=
  { idle32 with status := { busy := busy, done := done, err := err, errCode := errCode } }

/-- A host with one line. -/
def oneLine (l : HostLine .w32) : HostSide .w32 := { script := [l], line := 0, names := [], failedExpects := 0 }

/-- A machine around a block, with no script and no turns. -/
def machine (c : Chip .w32) : State := ⟨.w32, c, .idle .w32, [], 0⟩

/-- A, B, TLEN, S[0], S[1] and STATUS of an outcome, as numbers. -/
def view : Host.Outcome State Fault Refusal → List Nat
  | .next t =>
    [t.chip.a.toNat, t.chip.b.toNat, t.chip.tlen.toNat, t.chip.s[0].toNat, t.chip.s[1].toNat, t.chip.status.word.toNat]
  | .fault _ => []
  | .refused _ => []

/-- STATUS after a port write. -/
def statusAfter (c : Chip .w32) (addr : PortAddr) (data : BitVec 32) : Nat := (portWrite c addr data).status.word.toNat

/-! Decoding: the words of 30_encoding.md R82, bit by bit. -/

theorem test_decode_nop : decode 0b00000000000000000000000000000000 = .ok .nop := by decide
theorem test_decode_expand : decode 0b00000000000000000000000000000001 = .ok .expand := by decide
theorem test_decode_encrypt : decode 0b00000000000000000000000000000010 = .ok .encrypt := by decide
theorem test_decode_decrypt : decode 0b00000000000000000000000000000011 = .ok .decrypt := by decide
theorem test_decode_add : decode 0b00000000000000000000000000000100 = .ok .add := by decide
theorem test_decode_sub : decode 0b00000000000000000000000000000101 = .ok .sub := by decide
theorem test_decode_rotl : decode 0b00000000000000000000000000000110 = .ok .rotl := by decide
theorem test_decode_rotr : decode 0b00000000000000000000000000000111 = .ok .rotr := by decide
theorem test_decode_refuses_opcode : decode 0x0000000F = .error (.reservedOpcode 0xF) := by decide
theorem test_decode_refuses_reserved_bits : decode 0x80000001 = .error (.reservedBits 0x8000000) := by decide
theorem test_table_word : decodeTableWord 32 5 = some .sub := by decide
theorem test_table_word_illegal : decodeTableWord 32 0x10 = none := by decide

/-! Ill-formed terms, one for each check (30_encoding.md R83, R88, R89). -/

theorem test_illformed_opcode : CmdWord.wellFormed 0x00000008 = false := by decide
theorem test_illformed_reserved_bits : CmdWord.wellFormed 0x00000010 = false := by decide
theorem test_illformed_key_index : Target.wellFormed (.key 255) = false := by decide
theorem test_illformed_s_index : Target.wellFormed (.s 512) = false := by decide
theorem test_illformed_write : Stmt.wellFormed (W := .w32) (.wr (.key 255) 0) = false := by decide
theorem test_illformed_read : Stmt.wellFormed (W := .w32) (.rd (.s 512) none) = false := by decide
theorem test_illformed_loadkey : Stmt.wellFormed (W := .w32) (.loadKey (List.replicate 256 0)) = false := by
  decide +kernel

/-! ADD, SUB, ROTL, ROTR: 95_test_vectors.md 2.1 and 2.2. -/

theorem test_add_wraps : view (exec .add (machine (withAB 0xFFFFFFFF 0x0000000D))) = [0x0000000C, 0xD, 0, 0, 0, 2] := by
  decide
theorem test_add_width8 : (wrappingAdd 0xFF#8 0x01#8).toNat = 0x00 := by decide
theorem test_sub_wraps : view (exec .sub (machine (withAB 0x00000000 0x00000001))) = [0xFFFFFFFF, 1, 0, 0, 0, 2] := by
  decide
theorem test_sub_width8 : (wrappingSub 0x01#8 0xFF#8).toNat = 0x02 := by decide
theorem test_rotl_past_width : view (exec .rotl (machine (withAB 0x12345678 0x21))) = [0x2468ACF0, 0x21, 0, 0, 0, 2] := by
  decide
theorem test_rotl_width64 : (rotl 0x0123456789ABCDEF#64 0x48).toNat = 0x23456789ABCDEF01 := by decide
theorem test_rotr_acts_as_31 :
    view (exec .rotr (machine (withAB 0x12345678 0xFFFFFFFF))) = [0x2468ACF0, 0xFFFFFFFF, 0, 0, 0, 2] := by decide
theorem test_rotr_full_width : (rotr 0x81#8 8).toNat = 0x81 := by decide

/-! Pack, Initialize and Mix: 95_test_vectors.md 2.3, 2.4 and 2.5. -/

theorem test_pack_short_key : (pack .w32 [1, 2, 3, 4, 5]).map BitVec.toNat = [0x04030201, 0x00000005] := by decide
theorem test_pack_width8 : (pack .w8 [1, 2, 3]).map BitVec.toNat = [1, 2, 3] := by decide
theorem test_initialize_width32 :
    (initTable .w32 1).map BitVec.toNat = [0xB7E15163, 0x5618CB1C, 0xF45044D5, 0x9287BE8E] := by decide
theorem test_initialize_width8 : (initTable .w8 1).map BitVec.toNat = [0xB7, 0x56, 0xF5, 0x94] := by decide
theorem test_mix_first_iteration :
    (mixLoop 2 1 1 (mixStart (initTable .w32 0) [0])).ma.toNat = 0xBF0A8B1D ∧
    (mixLoop 2 1 1 (mixStart (initTable .w32 0) [0])).mb.toNat = 0xB7E15163 := by decide
theorem test_mix_sixth_iteration :
    (mixLoop 4 2 6 (mixStart (initTable .w32 1) (pack .w32 [1, 2, 3, 4, 5]))).ma.toNat = 0xA9C8AFA4 ∧
    (mixLoop 4 2 6 (mixStart (initTable .w32 1) (pack .w32 [1, 2, 3, 4, 5]))).mb.toNat = 0x43BA9091 := by decide

/-! EXPAND, ENCRYPT and DECRYPT: 95_test_vectors.md 1.1, 2.6 and 3. -/

theorem test_expand_empty_key : view (exec .expand (machine idle32)) = [0, 0, 2, 0x4DBA7B7A, 0x1E1D1179, 2] := by
  decide +kernel
theorem test_expand_width128 :
    (expand .w128 [] 0).map BitVec.toNat =
      [0xCBDA90181A9BD6993B1430F32BE524BE, 0x52A346248FA710FA808A90871ADB5E77] := by decide
theorem test_encrypt_command :
    view (exec .encrypt (machine p2)) = [0x9EE11B8B, 0x54352E06, 4, 0x3289E221, 0x1B11E1A9, 2] := by decide +kernel
theorem test_encrypt_known_answer :
    encrypt (expand .w32 (List.replicate 16 0) 12) 12 (0, 0) = ((0xEEDBA521#32, 0x6D8F4B15#32) : Pair .w32) := by
  decide +kernel
theorem test_decrypt_command :
    view (exec .decrypt (machine p2)) = [0xB2294A18, 0x5C03896B, 4, 0x3289E221, 0x1B11E1A9, 2] := by decide +kernel
theorem test_decrypt_published_width8 :
    decrypt (expand .w8 [0, 1, 2, 3] 12) 12 (0x21#8, 0x2A#8) = ((0x00#8, 0x01#8) : Pair .w8) := by decide +kernel

/-! NOP and the life of a command: 95_test_vectors.md H12, H22; 40_command.md R92. -/

theorem test_nop_only_completes : view (exec .nop (machine (busy 0))) = [0, 0, 0, 0, 0, 2] := by decide
theorem test_accept_clears_done : statusAfter (withStatus false true false .none) 0x001 0 = 0x01 := by decide
theorem test_accept_keeps_error : statusAfter (withStatus false false true .illegalCmd) 0x001 1 = 0x15 := by decide
theorem test_fetch_word_runs :
    view (step ((machine p2).withFetchWord 32 2)) = [0x9EE11B8B, 0x54352E06, 4, 0x3289E221, 0x1B11E1A9, 2] := by
  decide +kernel

/-! The port: 95_test_vectors.md H1, H4, H8, H11, H13 to H15, H17 to H21, H23. -/

theorem test_id_reads : (portRead State.reset.chip 0 0x000).toNat = 0x00FFFF20 := by decide
theorem test_reserved_write : statusAfter idle32 0x008 1 = 0x34 := by decide
theorem test_reserved_write_above_key : statusAfter idle32 0x1FF 1 = 0x34 := by decide
theorem test_illegal_opcode : statusAfter idle32 0x001 0x00000008 = 0x14 := by decide
theorem test_illegal_keeps_done : statusAfter (withStatus false true false .none) 0x001 0xF = 0x16 := by decide
theorem test_busy_write : statusAfter (busy 2) 0x001 2 = 0x25 := by decide
theorem test_busy_wins_over_illegal : statusAfter (busy 2) 0x001 9 = 0x25 := by decide
theorem test_access_wins_over_busy : statusAfter (busy 2) 0x200 0 = 0x35 := by decide
theorem test_first_error_kept : statusAfter (withStatus false false true .illegalCmd) 0x005 0 = 0x14 := by decide
theorem test_clear_while_busy : statusAfter (withStatus true false true .busyWrite) 0x002 6 = 0x01 := by decide
theorem test_clear_done_only : statusAfter (withStatus false true true .illegalCmd) 0x002 2 = 0x14 := by decide
theorem test_clear_err_only : statusAfter (withStatus false true true .illegalCmd) 0x002 4 = 0x02 := by decide
theorem test_status_read_only_bits : statusAfter (withStatus false true false .none) 0x002 0xF1 = 0x02 := by decide
theorem test_rounds_reserved_bits : (portRead (portWrite idle32 0x003 0x1FF) 0 0x003).toNat = 0xFF := by decide
theorem test_key_last_entry : (portRead (portWrite idle32 0x1FE 0x155) 0 0x1FE).toNat = 0x55 := by decide

/-! Scripts: 30_encoding.md R88. -/

theorem test_assemble_run :
    assemble [Stmt.clear, Stmt.run (W := .w32) .encrypt] =
      [.write 0x002 6, .write 0x001 2, .read 0x002 (some 0), .branch 0 0 true 2] := by decide
theorem test_assemble_loadkey :
    assemble [Stmt.loadKey (W := .w32) [1, 2], Stmt.label 7, Stmt.ifGoto 0 2 false 7] =
      [.write 0x004 2, .write 0x100 1, .write 0x101 2, .branch 0 2 false 3] := by decide

/-! The end of a run, and EXPECT with a name: 70_reset_and_hazards.md R182; 95_test_vectors.md P4 line 9, P5. -/

theorem test_run_ends_before_a_later_reset :
    (runToEnd 3 (State.withScript ⟨.w32, idle32, .idle .w32, [.host, .engine, .reset], 0⟩
        (assemble [Stmt.command (W := .w32) .nop]))).map (fun t => (t.chip.status.word.toNat, t.turns)) =
      some (2, [.reset]) := by decide
theorem test_expect_of_a_name :
    (({ HostSide.idle .w32 with names := [(1, 0x4DBA7B7A), (2, 0x4DBA7B7A)] }).check 1 (.name 2)).failedExpects = 0 := by
  decide

/-! States that meet the obligations' hypotheses, at the edges of their ranges. -/

theorem witness_IllegalWordOnlyRecordsError :
    (8 ≤ (0x00000008#32).toNat % 2 ^ 32 % 16 ∨ (0x00000008#32).toNat % 2 ^ 32 / 16 ≠ 0) ∧
    (8 ≤ (0x00000010#32).toNat % 2 ^ 32 % 16 ∨ (0x00000010#32).toNat % 2 ^ 32 / 16 ≠ 0) := by decide

theorem witness_IdleBlockAcceptsCommands :
    idle32.status.busy = false ∧ (0x00000007#32).toNat % 2 ^ 32 = (encode .rotr).toNat ∧
    ∀ i, (0x00000008#32).toNat % 2 ^ 32 ≠ (encode i).toNat := by
  refine ⟨rfl, by decide, ?_⟩
  intro i
  cases i <;> decide

theorem witness_StepRunsPendingCommand :
    (busy 7).status.busy = true ∧ (busy 7).pendOp = opcode .rotr ∧ idle32.status.busy = false ∧
    decode (BitVec.ofNat 32 (7 % 2 ^ 32)) = .ok .rotr := by decide

theorem witness_NopOnlyCompletes :
    idle32.status.busy = false ∧
    (oneLine (.write 0x001 0)).script[(oneLine (.write 0x001 0)).line]? = some (.write 0x001 0x00000000) := by
  exact ⟨rfl, rfl⟩

/-- Shared by AddWrapsModuloWord, SubWrapsModuloWord, RotlRotatesByAmountModuloWidth and RotrRotatesByAmountModuloWidth. -/
theorem witness_wordOps_corners :
    (withAB 5 0).b = 0 ∧ (withAB 5 5).a = (withAB 5 5).b ∧ (withAB 0 3).a = 0 ∧
    (withAB 0xFFFFFFFF 3).a = BitVec.allOnes 32 := ⟨rfl, rfl, rfl, rfl⟩

theorem witness_PackIsLittleEndian : 1 < (pack .w32 [1, 2, 3, 4, 5]).length ∧ 4 < [1, 2, 3, 4, 5].length := by
  decide

/-- The last clause of RotationIdentities: two amounts that agree mod 32. -/
theorem witness_RotationIdentities : 31 % Width.w32.bits = 63 % Width.w32.bits ∧ 31 ≠ 63 := by decide

theorem witness_InitialTableIsProgression : 510 + 1 < 2 * (255 + 1) ∧ 511 < 2 * (255 + 1) := by decide

theorem witness_MixIndicesCycle : initTable .w32 0 ≠ [] ∧ pack .w32 [] ≠ [] := by decide

theorem witness_MixIterationRewritesOneEntryOfEach :
    (mixStart (initTable .w32 0) (pack .w32 [])).i < (initTable .w32 0).length ∧
    (mixStart (initTable .w32 0) (pack .w32 [])).j < (pack .w32 []).length := by decide

/-- Shared by ExpandWritesTable, EncryptUsesFreshTable and DecryptUsesFreshTable: a key of five bytes, and the empty key. -/
theorem witness_keyCommands : Claims.IsKey p2 [1, 2, 3, 4, 5] ∧ Claims.IsKey idle32 [] := by
  refine ⟨⟨rfl, ?_⟩, ⟨rfl, by simp⟩⟩
  intro i hi _
  simp at hi
  interval_cases i <;> rfl

theorem witness_ExpansionDependsOnlyOnKeyAndRounds :
    Instr.decrypt ∈ [Instr.expand, Instr.encrypt, Instr.decrypt] ∧ idle32.rounds = (withAB 1 2).rounds ∧
    idle32.keylen = (withAB 1 2).keylen ∧
    ∀ (k : Nat) (hk : k < 255), k < idle32.keylen.toNat → idle32.key[k] = (withAB 1 2).key[k] := by
  refine ⟨by decide, rfl, rfl, ?_⟩
  intro k hk h
  rfl

theorem witness_ZeroRoundsOnlyWhiten : (withAB 1 2).rounds = 0 := rfl

theorem witness_EncryptDecryptRoundTrip :
    (Instr.decrypt, Instr.encrypt) ∈ [(Instr.encrypt, Instr.decrypt), (Instr.decrypt, Instr.encrypt)] := by decide

theorem witness_CommandsWriteOnlyTheirRegisters :
    (busy 2).status.busy = true ∧ ∀ i, (0x00000009#32).setWidth 32 ≠ encode i := by
  refine ⟨rfl, ?_⟩
  intro i
  cases i <;> decide

/-- The step that writes 0x55 to KEY[254], the last entry. -/
theorem witness_OnlyHostWritesKey :
    step ⟨.w32, idle32, oneLine (.write 0x1FE 0x55), [], 0⟩ =
      .next ⟨.w32, portWrite idle32 0x1FE 0x55, (oneLine (.write 0x1FE 0x55)).goto 1, [], 0⟩ ∧
    ([] : List Turn).head? ≠ some .reset ∧ (portWrite idle32 0x1FE 0x55).key[254] ≠ idle32.key[254] := by
  refine ⟨rfl, by decide, by decide⟩

theorem witness_OnlyKeyCommandsWriteTable :
    step ⟨.w32, busy 1, .idle .w32, [], 0⟩ =
      .next ⟨.w32, { performExpand (busy 1) 0 with status := (busy 1).status.completed }, .idle .w32, [], 1⟩ ∧
    ([] : List Turn).head? ≠ some .reset ∧ (performExpand (busy 1) 0).tlen ≠ (busy 1).tlen := by
  refine ⟨rfl, by decide, by decide⟩

theorem witness_OnlyAcceptanceSetsBusy :
    step ⟨.w32, idle32, oneLine (.write 0x001 7), [.host], 0⟩ =
      .next ⟨.w32, portWrite idle32 0x001 7, (oneLine (.write 0x001 7)).goto 1, [], 0⟩ ∧
    idle32.status.busy = false ∧ (portWrite idle32 0x001 7).status.busy = true := by
  refine ⟨rfl, rfl, by decide⟩

/-- The edges of the ranges no write may go to. -/
theorem witness_unwritable_edges :
    Claims.Unwritable 0x008 ∧ Claims.Unwritable 0x0FF ∧ Claims.Unwritable 0x1FF ∧ Claims.Unwritable 0x200 ∧
    Claims.Unwritable 0x3FF := by decide

theorem witness_not_unwritable_edges : ¬ Claims.Unwritable 0x1FE ∧ ¬ Claims.Unwritable 0x007 := by decide

/-- The edges of the KEY range, which the busy guard protects. -/
theorem witness_guarded_edges :
    Claims.Guarded 0x100 ∧ Claims.Guarded 0x1FE ∧ ¬ Claims.Guarded 0x1FF ∧ ¬ Claims.Guarded 0x008 := by decide

theorem witness_AddressDecode :
    0x200 ≤ (0x200 : PortAddr).toNat ∧ 0x200 ≤ (0x3FF : PortAddr).toNat ∧
    (0x100 ≤ (0x100 : PortAddr).toNat ∧ (0x100 : PortAddr).toNat ≤ 0x1FE) ∧
    (0x100 ≤ (0x1FE : PortAddr).toNat ∧ (0x1FE : PortAddr).toNat ≤ 0x1FE) := by decide

theorem witness_BusyReadsRevealNothing :
    (busy 1).status.busy = true ∧ (busy 4).status.busy = true ∧ 0x200 ≤ (0x3FF : PortAddr).toNat := by decide

theorem witness_PortReadReturnsRegisterValue :
    idle32.status.busy = false ∧ 254 < 255 ∧ 511 < 512 ∧ 0x008 ≤ (0x0FF : PortAddr).toNat ∧
    (0x0FF : PortAddr).toNat ≤ 0x0FF ∧ (0x1FF : PortAddr).toNat = 0x1FF := by decide

theorem witness_HostTurnRunsOneLine :
    (oneLine (.write 0x006 5)).script[(oneLine (.write 0x006 5)).line]? = some (.write 0x006 5) ∧
    (oneLine (.read 0x006 (some 3))).script[(oneLine (.read 0x006 (some 3))).line]? = some (.read 0x006 (some 3)) ∧
    (oneLine (.read 0x006 none)).script[(oneLine (.read 0x006 none)).line]? = some (.read 0x006 none) ∧
    (oneLine (.branch 3 0 true 0)).script[(oneLine (.branch 3 0 true 0)).line]? = some (.branch 3 0 true 0) ∧
    (oneLine (.expect 3 (.name 4))).script[(oneLine (.expect 3 (.name 4))).line]? = some (.expect 3 (.name 4)) ∧
    (HostSide.idle .w32).script[(HostSide.idle .w32).line]? = none := ⟨rfl, rfl, rfl, rfl, rfl, rfl⟩

theorem witness_WriteErrorPriority :
    (portWrite (withStatus false false true .access) 0x002 0).status.err = true ∧
    (busy 2).status.busy = true ∧ idle32.status.busy = false ∧ (0x00000002#32).setWidth 32 = encode .encrypt := by
  decide

/-- An error held through a step that records another. -/
theorem witness_FirstErrorIsKept :
    step ⟨.w32, withStatus false false true .illegalCmd, oneLine (.write 0x000 1), [.host], 0⟩ =
      .next ⟨.w32, portWrite (withStatus false false true .illegalCmd) 0x000 1, (oneLine (.write 0x000 1)).goto 1, [], 0⟩ ∧
    (withStatus false false true .illegalCmd).status.err = true ∧ [Turn.host].head? ≠ some .reset ∧
    ∀ data, (oneLine (.write 0x000 1)).script[(oneLine (.write 0x000 1)).line]? = some (.write 0x002 data) →
      data.getLsbD 2 = false := by
  refine ⟨rfl, rfl, by decide, ?_⟩
  intro data h
  simp [oneLine] at h

/-- An error held through an engine's turn that stands before a clearing STATUS write. -/
theorem witness_FirstErrorIsKept_engine :
    (∃ t, step ⟨.w32, withStatus true false true .busyWrite, oneLine (.write 0x002 4), [.engine], 0⟩ = .next t) ∧
    (withStatus true false true .busyWrite).status.err = true ∧ [Turn.engine].head? ≠ some .reset ∧
    ¬ ([Turn.engine].head? = some .host ∨
      ([Turn.engine] = [] ∧ (withStatus true false true .busyWrite).status.busy = false)) :=
  ⟨⟨_, rfl⟩, rfl, by decide, by decide⟩

theorem witness_IdleWritesSetOneRegister : idle32.status.busy = false ∧ 254 < 255 := by decide

theorem witness_RepeatedWriteIsIdempotent : (0x1FE : PortAddr).toNat ≠ 0x001 ∧ (0x002 : PortAddr).toNat ≠ 0x001 := by decide

theorem witness_OperandsStableWhilePending : (busy 3).status.busy = true := rfl

theorem witness_PendingCommandCompletes : (busy 7).Legal ∧ (busy 7).status.busy = true := by decide

theorem witness_UnwaitedWriteHasTwoOutcomes :
    (busy 2).status.busy = true ∧ (busy 2).pendOp = opcode .encrypt ∧
    (oneLine (.write 0x006 5)).script[(oneLine (.write 0x006 5)).line]? = some (.write 0x006 5) ∧
    Claims.Guarded 0x006 := ⟨rfl, rfl, rfl, by decide⟩

theorem witness_StepKeepsLegal :
    (machine (busy 7)).Legal ∧
    step (machine (busy 7)) =
      .next ⟨.w32, { performRotr (busy 7) with status := (busy 7).status.completed }, .idle .w32, [], 0⟩ :=
  ⟨by decide, rfl⟩

theorem witness_StepKeepsWidthAndNeverStops : (machine (busy 7)).Legal ∧ State.reset.Legal :=
  ⟨witness_StepKeepsLegal.1, by decide⟩

theorem witness_EndedRunStays :
    State.reset.Ended ∧ Turn.reset ∉ State.reset.turns ∧
    (State.mk .w32 idle32 (.idle .w32) [.engine, .host] 0).Ended ∧ Turn.reset ∉ [Turn.engine, Turn.host] := by decide

theorem witness_AssemblerNamesRegisters : Target.wellFormed (.key 255) = false ∧ Target.wellFormed (.key 254) = true := by
  decide

theorem witness_RunEndsAtFirstPoint : idle32.status.busy = false ∧ ¬ (machine (busy 2)).Ended := by decide

theorem witness_LoadKeySetsTheKey :
    ∃ h : HostSide .w32, h.script = assemble [Stmt.loadKey [1, 2]] ∧ h.line = 0 ∧ idle32.status.busy = false ∧
      [1, 2].length ≤ 255 :=
  ⟨{ HostSide.idle .w32 with script := assemble [Stmt.loadKey [1, 2]] }, rfl, rfl, rfl, by decide⟩

theorem witness_RunScriptCompletesTheCommand :
    ∃ h : HostSide .w32, h.script = assemble [Stmt.run .add] ∧ h.line = 0 ∧ idle32.status.busy = false :=
  ⟨{ HostSide.idle .w32 with script := assemble [Stmt.run .add] }, rfl, rfl, rfl⟩

end Sys2Proof.Tests
end

section
/-! The port's ID register, and what the port does at any address that no write may go to (spec/10_state.md R21,
spec/20_memory.md R42, R47). -/

namespace Sys2Proof.Machine

variable {W : Width}

theorem Width.le_portBits (W : Width) : 32 ≤ W.portBits := Nat.le_max_left 32 W.bits

/-- Zero-extension to the port's data keeps the value of anything at most 32 bits wide (R42). -/
theorem toNat_setWidth_portBits {n : Nat} (hn : n ≤ 32) (x : BitVec n) : (x.setWidth W.portBits).toNat = x.toNat :=
  BitVec.toNat_setWidth_of_le (hn.trans (Width.le_portBits W))

theorem toNat_idWord (W : Width) : (idWord W).toNat = W.bits + 0xFF * 2 ^ 8 + 0xFF * 2 ^ 16 := by
  cases W <;> rfl

/-- A read of ID looks at nothing in the block (R21, R45). -/
theorem portRead_id (c : Chip W) (d : Nat) : portRead c d 0x000 = (idWord W).setWidth W.portBits := rfl

/-- The address check comes first: STATUS and BUSY do not matter where it fails (R47). -/
theorem portWrite_of_not_writable (c : Chip W) (data : PortData W) {addr : PortAddr}
    (hw : (portReg addr).writable = false) : portWrite c addr data = raiseError .access c := if_pos hw

theorem toNat_portRead_id (c : Chip W) (d : Nat) :
    (portRead c d 0x000).toNat = W.bits + 0xFF * 2 ^ 8 + 0xFF * 2 ^ 16 := by
  rw [portRead_id, toNat_setWidth_portBits le_rfl, toNat_idWord]

/-- Settles O35: a read of ID is the same constant from every block, the one after the failed write included. -/
theorem idIdentifiesTheBlock : Obligations.IdIdentifiesTheBlock := fun _ c d data =>
  ⟨toNat_portRead_id c d, portWrite_of_not_writable c data rfl, toNat_portRead_id (portWrite c 0x000 data) d⟩

end Sys2Proof.Machine
end

section
/-! The address decode over its ranges, what a read of each host-writable register returns, and the writes that reach one
(spec/20_memory.md R44, R45, R47, R49 to R52). -/

namespace Sys2Proof.Machine

variable {W : Width}

/-! The address decode. -/

theorem portReg_of_s_range {addr : PortAddr} (h : 0x200 ≤ addr.toNat) :
    ∃ hk, portReg addr = .s ⟨addr.toNat - 0x200, hk⟩ :=
  ⟨_, dif_pos h⟩

theorem portReg_of_key_range {addr : PortAddr} (hlo : 0x100 ≤ addr.toNat) (hhi : addr.toNat ≤ 0x1FE) :
    ∃ hk, portReg addr = .key ⟨addr.toNat - 0x100, hk⟩ := by
  have hk : addr.toNat - 0x100 < 255 := by omega
  exact ⟨hk, (dif_neg (by omega)).trans ((if_pos hlo).trans (dif_pos hk))⟩

/-- The addresses above the eight registers and the one above KEY name nothing (R44). -/
theorem portReg_of_reserved {addr : PortAddr}
    (haddr : (0x008 ≤ addr.toNat ∧ addr.toNat ≤ 0x0FF) ∨ addr.toNat = 0x1FF) : portReg addr = .reserved := by
  rcases haddr with ⟨hlo, hhi⟩ | htop
  · rw [portReg, dif_neg (by omega), if_neg (by omega)]
    split
    case h_9 => rfl
    all_goals omega
  · exact (dif_neg (by omega)).trans ((if_pos (by omega)).trans (dif_neg (by omega)))

theorem portRead_of_reserved (c : Chip W) (d : Nat) {addr : PortAddr} (h : portReg addr = .reserved) :
    portRead c d addr = 0 := by simp only [portRead, h, readReg]

theorem portWrite_of_reserved (c : Chip W) (data : PortData W) {addr : PortAddr} (h : portReg addr = .reserved) :
    portWrite c addr data = raiseError .access c :=
  portWrite_of_not_writable c data (by rw [h]; rfl)

/-- Settles O34: one lemma for each range of addresses, and the eight registers by evaluation. -/
theorem addressDecode : Obligations.AddressDecode := by
  refine ⟨fun _ => portReg_of_s_range, fun _ => portReg_of_key_range,
    rfl, rfl, rfl, rfl, rfl, rfl, rfl, rfl, fun addr haddr => ?_⟩
  have hres : portReg addr = .reserved := portReg_of_reserved haddr
  exact ⟨hres, fun _ c d data => ⟨portRead_of_reserved c d hres, portWrite_of_reserved c data hres⟩⟩

/-! A STATUS write. -/

/-- The STATUS write stands before the busy check (R47, R49). -/
theorem portWrite_status (c : Chip W) (data : PortData W) : portWrite c 0x002 data = statusWrite c data := rfl

/-- Write-one-to-clear, flag by flag: a flag stays where it was set and its clear bit is 0 (R49). -/
theorem Status.written_eq (st : Status) (clearDone clearErr : Bool) :
    st.written clearDone clearErr =
      { busy := st.busy
        done := st.done && !clearDone
        err := st.err && !clearErr
        errCode := if clearErr = true then .none else st.errCode } := by
  cases clearDone <;> cases clearErr <;> simp [Status.written]

/-- Settles O40: the bits a STATUS write looks at are those of the number written. -/
theorem statusWriteClearsOnlyDoneAndErr : Obligations.StatusWriteClearsOnlyDoneAndErr := by
  intro W c data
  rw [portWrite_status, statusWrite, Status.written_eq]
  rfl

/-! The registers an idle block lets the host write. -/

theorem Width.bits_le_portBits (W : Width) : W.bits ≤ W.portBits := Nat.le_max_right 32 W.bits

/-- Data cut to a register of `n` bits and read back is the number its low `n` bits make (R42). -/
theorem toNat_setWidth_portBits_low {n : Nat} (hn : n ≤ W.portBits) (data : PortData W) :
    ((data.setWidth n).setWidth W.portBits).toNat = data.toNat % 2 ^ n := by
  rw [BitVec.toNat_setWidth_of_le hn, BitVec.toNat_setWidth]

theorem portRead_rounds (c : Chip W) (d : Nat) : portRead c d 0x003 = c.rounds.setWidth W.portBits := rfl

theorem portRead_keylen (c : Chip W) (d : Nat) : portRead c d 0x004 = c.keylen.setWidth W.portBits := rfl

theorem portRead_a_of_idle {c : Chip W} (d : Nat) (hidle : c.status.busy = false) :
    portRead c d 0x006 = c.a.setWidth W.portBits := if_neg (by simp [hidle])

theorem portRead_b_of_idle {c : Chip W} (d : Nat) (hidle : c.status.busy = false) :
    portRead c d 0x007 = c.b.setWidth W.portBits := if_neg (by simp [hidle])

theorem portRead_key (c : Chip W) (d : Nat) {k : Nat} (hk : k < 255) :
    portRead c d (BitVec.ofNat 10 (0x100 + k)) = c.key[k].setWidth W.portBits := by
  rw [portRead, portReg_key k hk]
  rfl

/-- A write to an idle block that passes the address check, and is not STATUS's, reaches its register (R47). -/
theorem portWrite_of_idle {c : Chip W} (hidle : c.status.busy = false) (data : PortData W) {addr : PortAddr}
    (hw : (portReg addr).writable = true) (hs : portReg addr ≠ .status) :
    portWrite c addr data = writeReg c data (portReg addr) := by
  simp [portWrite, guardedWrite, hw, hs, hidle]

theorem portWrite_key_of_idle {c : Chip W} (hidle : c.status.busy = false) (data : PortData W) {k : Nat} (hk : k < 255) :
    portWrite c (BitVec.ofNat 10 (0x100 + k)) data = { c with key := c.key.set k (data.setWidth 8) hk } := by
  have hreg := portReg_key k hk
  rw [portWrite_of_idle hidle data (by rw [hreg]; rfl) (by simp [hreg]), hreg]
  rfl

/-- Settles O41: for each register, the block after the write, and the read of that block. -/
theorem idleWritesSetOneRegister : Obligations.IdleWritesSetOneRegister := by
  intro W c d data hidle
  have hbyte : 8 ≤ W.portBits := le_trans (by decide) (Width.le_portBits W)
  have hrounds : portWrite c 0x003 data = { c with rounds := data.setWidth 8 } :=
    portWrite_of_idle hidle data rfl (by decide)
  have hkeylen : portWrite c 0x004 data = { c with keylen := data.setWidth 8 } :=
    portWrite_of_idle hidle data rfl (by decide)
  have ha : portWrite c 0x006 data = { c with a := data.setWidth W.bits } :=
    portWrite_of_idle hidle data rfl (by decide)
  have hbReg : portWrite c 0x007 data = { c with b := data.setWidth W.bits } :=
    portWrite_of_idle hidle data rfl (by decide)
  refine ⟨⟨hrounds, ?_⟩, ⟨hkeylen, ?_⟩, ⟨ha, ?_⟩, ⟨hbReg, ?_⟩, fun k hk => ⟨portWrite_key_of_idle hidle data hk, ?_⟩⟩
  · rw [hrounds, portRead_rounds, toNat_setWidth_portBits_low hbyte]
  · rw [hkeylen, portRead_keylen, toNat_setWidth_portBits_low hbyte]
  · rw [ha, portRead_a_of_idle, toNat_setWidth_portBits_low (Width.bits_le_portBits W)]
    exact hidle
  · rw [hbReg, portRead_b_of_idle, toNat_setWidth_portBits_low (Width.bits_le_portBits W)]
    exact hidle
  · rw [portWrite_key_of_idle hidle data hk, portRead_key _ d hk, Vector.getElem_set_self,
      toNat_setWidth_portBits_low hbyte]

end Sys2Proof.Machine
end

section
/-! The two fields of a command word, and decode and encode as inverses of each other (spec/30_encoding.md R80 to R84). -/

namespace Sys2Proof

/-! The fields as numbers. -/

theorem toNat_opcField (w : CmdWord) : (opcField w).toNat = w.toNat % 16 := by
  simp [opcField]

theorem toNat_rsvField (w : CmdWord) : (rsvField w).toNat = w.toNat / 16 := by
  have hw : w.toNat < 2 ^ 32 := w.isLt
  simp only [rsvField, BitVec.extractLsb'_toNat, Nat.shiftRight_eq_div_pow]
  omega

/-- RSV = 0 leaves a word the low four bits alone (R83). -/
theorem rsvField_eq_zero_iff (w : CmdWord) : rsvField w = 0 ↔ w.toNat < 16 := by
  have hnum : rsvField w = 0 ↔ (rsvField w).toNat = 0 := BitVec.toNat_inj.symm
  rw [hnum, toNat_rsvField]
  omega

/-- A word is its two fields: nothing else is in it (R80). -/
theorem eq_of_fields_eq {w v : CmdWord} (hrsv : rsvField w = rsvField v) (hopc : opcField w = opcField v) : w = v := by
  have hhigh : w.toNat / 16 = v.toNat / 16 := by rw [← toNat_rsvField, hrsv, toNat_rsvField]
  have hlow : w.toNat % 16 = v.toNat % 16 := by rw [← toNat_opcField, hopc, toNat_opcField]
  exact BitVec.eq_of_toNat_eq (by omega)

/-! The opcode map. -/

theorem decodeOpcode_eq_some_iff (opc : BitVec 4) (i : Instr) : decodeOpcode opc = some i ↔ opc = opcode i := by
  cases i <;> decide +revert

/-- The commands' opcodes are 0x0 to 0x7 (R82). -/
theorem exists_eq_opcode_iff (opc : BitVec 4) : (∃ i, opc = opcode i) ↔ opc.toNat < 8 := by
  simp only [← decodeOpcode_eq_some_iff, ← Option.isSome_iff_exists]
  decide +revert

/-! The decoder and the encoder. -/

theorem encode_fields (i : Instr) : rsvField (encode i) = 0 ∧ opcField (encode i) = opcode i := by
  cases i
  exacts [Laws.Encoding.nop.2, Laws.Encoding.expand.2, Laws.Encoding.encrypt.2, Laws.Encoding.decrypt.2,
    Laws.Encoding.add.2, Laws.Encoding.sub.2, Laws.Encoding.rotl.2, Laws.Encoding.rotr.2]

theorem decode_eq_ok_iff_fields (w : CmdWord) (i : Instr) :
    decode w = .ok i ↔ rsvField w = 0 ∧ opcField w = opcode i := by
  by_cases hrsv : rsvField w = 0#28
  · rw [← decodeOpcode_eq_some_iff]
    rcases hopc : decodeOpcode (opcField w) with _ | j <;> simp [decode, hrsv, hopc]
  · simp [decode, hrsv]

/-- The words that decode to a command are the encoder's words for it, and no others (R84). -/
theorem decode_eq_ok_iff (w : CmdWord) (i : Instr) : decode w = .ok i ↔ w = encode i := by
  obtain ⟨hrsv, hopc⟩ := encode_fields i
  rw [decode_eq_ok_iff_fields]
  constructor
  · rintro ⟨hw, hi⟩
    exact eq_of_fields_eq (hw.trans hrsv.symm) (hi.trans hopc.symm)
  · rintro rfl
    exact ⟨hrsv, hopc⟩

/-- The table reader's answer for a word of 32 bits is the decoder's (R85). -/
theorem decodeTableWord_eq_some_iff (w : CmdWord) (i : Instr) :
    decodeTableWord 32 w.toNat = some i ↔ decode w = .ok i := by
  have hw : w.toNat % 2 ^ 32 = w.toNat := Nat.mod_eq_of_lt w.isLt
  rw [decodeTableWord, hw, if_pos w.isLt, BitVec.ofNat_toNat, BitVec.setWidth_eq]
  rcases decode w with e | j <;> simp

/-- Settles O2: decode inverts encode on all words, and the eight words of the opcode map are evaluated. -/
theorem decodeIffEncode : Obligations.DecodeIffEncode :=
  ⟨decode_eq_ok_iff, fun w i => (decodeTableWord_eq_some_iff w i).trans (decode_eq_ok_iff w i),
    rfl, rfl, rfl, rfl, rfl, rfl, rfl, rfl⟩

/-- The legal words are the numbers below 8: RSV = 0 and OPC below 8 (R83). -/
theorem exists_decode_eq_ok_iff (w : CmdWord) : (∃ i, decode w = .ok i) ↔ w.toNat < 8 := by
  simp only [decode_eq_ok_iff_fields, exists_and_left, exists_eq_opcode_iff, rsvField_eq_zero_iff, toNat_opcField]
  omega

end Sys2Proof

namespace Sys2Proof.Machine

variable {W : Width}

/-! A CMD write. -/

/-- A write to a busy block that passes the address check, and is not STATUS's, reaches no register (R47). -/
theorem portWrite_of_busy {c : Chip W} (hbusy : c.status.busy = true) (data : PortData W) {addr : PortAddr}
    (hw : (portReg addr).writable = true) (hs : portReg addr ≠ .status) :
    portWrite c addr data = raiseError .busyWrite c := by
  simp [portWrite, guardedWrite, hw, hs, hbusy]

theorem acceptCommand_of_illegal (c : Chip W) {w : CmdWord} (hw : 8 ≤ w.toNat) :
    acceptCommand c w = raiseError .illegalCmd c := by
  obtain ⟨_, _, hrefused⟩ | ⟨i, hi, _⟩ := acceptCommand_cases c w
  · exact hrefused
  · have hlegal : w.toNat < 8 := (exists_decode_eq_ok_iff w).mp ⟨i, hi⟩
    omega

/-- Settles O3: while busy the guard answers before the word is looked at; while idle the word, which is not below 8,
is refused. -/
theorem illegalWordOnlyRecordsError : Obligations.IllegalWordOnlyRecordsError := by
  refine ⟨fun W c data hillegal => ?_, exists_decode_eq_ok_iff⟩
  cases hbusy : c.status.busy with
  | true => exact portWrite_of_busy hbusy data rfl (by decide)
  | false =>
    have hword : 8 ≤ (data.setWidth 32).toNat := by
      rw [BitVec.toNat_setWidth]
      omega
    exact (portWrite_of_idle hbusy data rfl (by decide)).trans (acceptCommand_of_illegal c hword)

end Sys2Proof.Machine
end

section
/-! The assembler's targets: their addresses, and what a line with an index out of range assembles to
(spec/30_encoding.md R89). -/

namespace Sys2Proof.Machine

variable {W : Width}

theorem Target.addr_key {k : Nat} (hk : k < 255) : Target.addr (.key k) = some (BitVec.ofNat 10 (0x100 + k)) := if_pos hk

theorem Target.addr_s {k : Nat} (hk : k < 512) : Target.addr (.s k) = some (BitVec.ofNat 10 (0x200 + k)) := if_pos hk

/-- Only an index out of range has no address. -/
theorem Target.addr_eq_none_iff (t : Target) : t.addr = none ↔ t.wellFormed = false := by
  cases t with
  | key k =>
    rw [Target.wellFormed, decide_eq_false_iff_not]
    simp [Target.addr, Config.keyMax]
  | s k =>
    rw [Target.wellFormed, decide_eq_false_iff_not]
    simp [Target.addr, Config.tableMax]
  | _ => simp [Target.addr, Target.wellFormed]

theorem emitWrite_of_addr_none {t : Target} (h : t.addr = none) (value : PortData W) : emitWrite t value = [] := by
  simp only [emitWrite, h]

theorem emitRead_of_addr_none {t : Target} (h : t.addr = none) (name : Option HostName) :
    (emitRead t name : List (HostLine W)) = [] := by
  simp only [emitRead, h]

/-- A script of one line assembles to what that line does. -/
theorem assemble_singleton (x : Stmt W) : assemble [x] = emit (fun l => labelLine [x] l 0 [x]) 0 x :=
  List.append_nil _

/-- Settles O54: the table entries by their ranges, the rest by evaluation. -/
theorem assemblerNamesRegisters : Obligations.AssemblerNamesRegisters := by
  refine ⟨fun k hk => ⟨_, Target.addr_key hk, ?_, portReg_key k hk⟩,
    fun k hk => ⟨_, Target.addr_s hk, ?_, portReg_s k hk⟩, Target.addr_eq_none_iff, fun W t value name ht => ?_,
    fun _ => rfl, rfl, rfl, rfl, rfl, rfl, rfl, rfl, rfl, rfl, rfl, rfl, rfl, rfl, rfl, rfl, rfl⟩
  · exact Nat.mod_eq_of_lt (by omega)
  · exact Nat.mod_eq_of_lt (by omega)
  · have hnone : t.addr = none := (Target.addr_eq_none_iff t).mpr ht
    rw [assemble_singleton, assemble_singleton]
    exact ⟨emitWrite_of_addr_none hnone value, emitRead_of_addr_none hnone name⟩

end Sys2Proof.Machine
end

section
/-! What an idle block makes of a CMD write, by the word the data carries (spec/20_memory.md R48, spec/40_command.md R90). -/

namespace Sys2Proof.Machine

variable {W : Width}

/-- An idle block looks at the low 32 bits of what is written to CMD, and at no other bit (R48). -/
theorem portWrite_cmd_of_idle {c : Chip W} (hidle : c.status.busy = false) (data : PortData W) :
    portWrite c 0x001 data = acceptCommand c (data.setWidth 32) :=
  portWrite_of_idle hidle data rfl (by decide)

theorem setWidth_eq_encode_iff (data : PortData W) (i : Instr) :
    data.setWidth 32 = encode i ↔ data.toNat % 2 ^ 32 = (encode i).toNat := by
  rw [← BitVec.toNat_inj, BitVec.toNat_setWidth]

theorem acceptCommand_encode (c : Chip W) (i : Instr) :
    acceptCommand c (encode i) = { c with pendOp := opcode i, status := c.status.accepted } := by
  have hdecode : decode (encode i) = .ok i := (decode_eq_ok_iff (encode i) i).mpr rfl
  obtain ⟨e, herror, _⟩ | ⟨_, _, haccepted⟩ := acceptCommand_cases c (encode i)
  · rw [hdecode] at herror
    cases herror
  · rw [haccepted, (encode_fields i).2]

theorem acceptCommand_of_ne_encode (c : Chip W) {w : CmdWord} (hw : ∀ i, w ≠ encode i) :
    acceptCommand c w = raiseError .illegalCmd c := by
  obtain ⟨_, _, hrefused⟩ | ⟨i, hdecode, _⟩ := acceptCommand_cases c w
  · exact hrefused
  · exact absurd ((decode_eq_ok_iff w i).mp hdecode) (hw i)

/-- Settles O4: the word written is the encoder's for some command, and accepted, or for none, and refused. -/
theorem idleBlockAcceptsCommands : Obligations.IdleBlockAcceptsCommands := by
  intro W c data hidle
  rw [portWrite_cmd_of_idle hidle]
  refine ⟨fun i hword => ?_, fun hword => ?_⟩
  · rw [(setWidth_eq_encode_iff data i).mpr hword]
    exact acceptCommand_encode c i
  · exact acceptCommand_of_ne_encode c fun i hi => hword i ((setWidth_eq_encode_iff data i).mp hi)

end Sys2Proof.Machine
end

section
/-! Modular addition and subtraction as numbers, and the block that ADD and SUB leave (spec/41_wordops.md R101, R102,
R105, R106). -/

namespace Sys2Proof.Machine

variable {W : Width}

/-- The difference with the summands in the spec's order (R102). -/
theorem wrappingSub_toNat_eq_add_sub_mod {w : Nat} (a b : BitVec w) :
    (wrappingSub a b).toNat = (a.toNat + 2 ^ w - b.toNat) % 2 ^ w := by
  have hb : b.toNat ≤ 2 ^ w := b.isLt.le
  rw [wrappingSub_toNat, Nat.add_sub_assoc hb, Nat.add_comm]

theorem exec_add (c : Chip W) (h : HostSide W) (ts : List Turn) (d : Nat) :
    exec .add ⟨W, c, h, ts, d⟩ =
      .next ⟨W, { c with a := wrappingAdd c.a c.b, status := c.status.completed }, h, ts, d⟩ :=
  complete_eq (performAdd c) c h ts d

theorem exec_sub (c : Chip W) (h : HostSide W) (ts : List Turn) (d : Nat) :
    exec .sub ⟨W, c, h, ts, d⟩ =
      .next ⟨W, { c with a := wrappingSub c.a c.b, status := c.status.completed }, h, ts, d⟩ :=
  complete_eq (performSub c) c h ts d

/-- Settles O8: the new A is R101's sum, which at the two corners adds 0, or A to itself. -/
theorem addWrapsModuloWord : Obligations.AddWrapsModuloWord := by
  refine ⟨(decode_eq_ok_iff _ _).mpr rfl, fun W c h ts d =>
    ⟨wrappingAdd c.a c.b, wrappingAdd_toNat c.a c.b, exec_add c h ts d, fun hzero => ?_, fun heq => ?_⟩⟩
  · rw [hzero]
    exact BitVec.add_zero c.a
  · rw [← heq, wrappingAdd_toNat, Nat.two_mul]

/-- Settles O9: the new A is R102's difference, which at the two corners subtracts 0, or A from itself. -/
theorem subWrapsModuloWord : Obligations.SubWrapsModuloWord := by
  refine ⟨(decode_eq_ok_iff _ _).mpr rfl, fun W c h ts d =>
    ⟨wrappingSub c.a c.b, wrappingSub_toNat_eq_add_sub_mod c.a c.b, exec_sub c h ts d, fun hzero => ?_, fun heq => ?_⟩⟩
  · rw [hzero]
    exact BitVec.sub_zero c.a
  · rw [heq]
    exact BitVec.sub_self c.b

end Sys2Proof.Machine
end

section
/-! The two rotations as numbers, the Words they fix, and the block that ROTL and ROTR leave (spec/42_rotate.md R110 to
R113). -/

namespace Sys2Proof.Machine

variable {W : Width} {w : Nat}

/-! The rotations of any Word. -/

/-- What a shift right leaves is already below 2^W, so the spec's final reduction drops none of it (R110, R111). -/
theorem toNat_div_two_pow_mod (x : BitVec w) (n : Nat) : x.toNat / 2 ^ n % 2 ^ w = x.toNat / 2 ^ n :=
  Nat.mod_eq_of_lt ((Nat.div_le_self _ _).trans_lt x.isLt)

theorem rotl_of_mod_eq_zero (x : BitVec w) {y : Nat} (hy : y % w = 0) : rotl x y = x := if_pos hy

theorem rotr_of_mod_eq_zero (x : BitVec w) {y : Nat} (hy : y % w = 0) : rotr x y = x := if_pos hy

theorem toNat_rotl (x : BitVec w) (y : Nat) :
    (rotl x y).toNat =
      if y % w = 0 then x.toNat
      else ((x.toNat * 2 ^ (y % w)) ||| (x.toNat / 2 ^ (w - y % w))) % 2 ^ w := by
  split
  · next hy => rw [rotl_of_mod_eq_zero x hy]
  · rw [rotl_eq_rotateLeft, BitVec.toNat_rotateLeft, Nat.shiftLeft_eq, Nat.shiftRight_eq_div_pow, Nat.or_mod_two_pow,
      toNat_div_two_pow_mod]

theorem toNat_rotr (x : BitVec w) (y : Nat) :
    (rotr x y).toNat =
      if y % w = 0 then x.toNat
      else ((x.toNat / 2 ^ (y % w)) ||| (x.toNat * 2 ^ (w - y % w))) % 2 ^ w := by
  split
  · next hy => rw [rotr_of_mod_eq_zero x hy]
  · rw [rotr_eq_rotateRight, BitVec.toNat_rotateRight, Nat.shiftLeft_eq, Nat.shiftRight_eq_div_pow, Nat.or_mod_two_pow,
      toNat_div_two_pow_mod]

/-- Settles O12: the formulas hold at every bit width, so at the five the block has. -/
theorem rotationFormulas : Obligations.RotationFormulas := fun _ x y => ⟨toNat_rotl x y, toNat_rotr x y⟩

/-! The Words no rotation changes: a rotation only moves bits, so a Word whose bits are all alike keeps them (R112). -/

theorem rotl_of_bits_alike {x : BitVec w} {bit : Bool} (hx : ∀ (i : Nat) (hi : i < w), x[i] = bit) (y : Nat) :
    rotl x y = x := by
  rw [rotl_eq_rotateLeft]
  ext i hi
  rw [BitVec.getElem_rotateLeft]
  split <;> simp only [hx]

theorem rotr_of_bits_alike {x : BitVec w} {bit : Bool} (hx : ∀ (i : Nat) (hi : i < w), x[i] = bit) (y : Nat) :
    rotr x y = x := by
  rw [rotr_eq_rotateRight]
  ext i hi
  rw [BitVec.getElem_rotateRight]
  split <;> simp only [hx]

@[simp] theorem rotl_zero_word (y : Nat) : rotl 0#w y = 0#w :=
  rotl_of_bits_alike (fun _ hi => BitVec.getElem_zero hi) y

@[simp] theorem rotl_allOnes (y : Nat) : rotl (BitVec.allOnes w) y = BitVec.allOnes w :=
  rotl_of_bits_alike BitVec.getElem_allOnes y

@[simp] theorem rotr_zero_word (y : Nat) : rotr 0#w y = 0#w :=
  rotr_of_bits_alike (fun _ hi => BitVec.getElem_zero hi) y

@[simp] theorem rotr_allOnes (y : Nat) : rotr (BitVec.allOnes w) y = BitVec.allOnes w :=
  rotr_of_bits_alike BitVec.getElem_allOnes y

/-! The commands. -/

theorem exec_rotl (c : Chip W) (h : HostSide W) (ts : List Turn) (d : Nat) :
    exec .rotl ⟨W, c, h, ts, d⟩ =
      .next ⟨W, { c with a := rotl c.a c.b.toNat, status := c.status.completed }, h, ts, d⟩ :=
  complete_eq (performRotl c) c h ts d

theorem exec_rotr (c : Chip W) (h : HostSide W) (ts : List Turn) (d : Nat) :
    exec .rotr ⟨W, c, h, ts, d⟩ =
      .next ⟨W, { c with a := rotr c.a c.b.toNat, status := c.status.completed }, h, ts, d⟩ :=
  complete_eq (performRotr c) c h ts d

/-- Settles O10: the new A is R110's rotation of A by all of B, which fixes the two Words whose bits are all alike. -/
theorem rotlRotatesByAmountModuloWidth : Obligations.RotlRotatesByAmountModuloWidth := by
  refine ⟨(decode_eq_ok_iff _ _).mpr rfl, fun W c h ts d =>
    ⟨rotl c.a c.b.toNat, toNat_rotl c.a c.b.toNat, exec_rotl c h ts d, fun hzero => ?_, fun hones => ?_⟩⟩
  · rw [hzero]
    exact rotl_zero_word _
  · rw [hones, rotl_allOnes]

/-- Settles O11: the new A is R111's rotation of A by all of B, which fixes the same two Words. -/
theorem rotrRotatesByAmountModuloWidth : Obligations.RotrRotatesByAmountModuloWidth := by
  refine ⟨(decode_eq_ok_iff _ _).mpr rfl, fun W c h ts d =>
    ⟨rotr c.a c.b.toNat, toNat_rotr c.a c.b.toNat, exec_rotr c h ts d, fun hzero => ?_, fun hones => ?_⟩⟩
  · rw [hzero]
    exact rotr_zero_word _
  · rw [hones, rotr_allOnes]

end Sys2Proof.Machine
end

section
/-! Mix as a sequence of states, one iteration at a time, and the sizes of what it works on (spec/43_key_schedule.md R120,
R121, R125, R126). -/

namespace Sys2Proof.Machine

variable {W : Width}

/-! One iteration. -/

theorem mixStep_ma (t c : Nat) (m : MixState W) :
    (mixStep t c m).ma = rotl (m.s.getD m.i 0 + m.ma + m.mb) 3 := rfl

/-- The second line uses the MA of the first (R125). -/
theorem mixStep_mb (t c : Nat) (m : MixState W) :
    (mixStep t c m).mb =
      rotl (m.l.getD m.j 0 + (mixStep t c m).ma + m.mb) ((mixStep t c m).ma + m.mb).toNat := rfl

theorem mixStep_s (t c : Nat) (m : MixState W) : (mixStep t c m).s = m.s.set m.i (mixStep t c m).ma := rfl

theorem mixStep_l (t c : Nat) (m : MixState W) : (mixStep t c m).l = m.l.set m.j (mixStep t c m).mb := rfl

theorem mixStep_i (t c : Nat) (m : MixState W) : (mixStep t c m).i = (m.i + 1) % t := rfl

theorem mixStep_j (t c : Nat) (m : MixState W) : (mixStep t c m).j = (m.j + 1) % c := rfl

/-! `n` iterations: both indices count them (R126). -/

theorem mixLoop_mixStart_i (t c n : Nat) (s l : List (Word W)) : (mixLoop t c n (mixStart s l)).i = n % t := by
  induction n with
  | zero => exact (Nat.zero_mod t).symm
  | succ n ih => rw [mixLoop_succ, mixStep_i, ih, Nat.mod_add_mod]

theorem mixLoop_mixStart_j (t c n : Nat) (s l : List (Word W)) : (mixLoop t c n (mixStart s l)).j = n % c := by
  induction n with
  | zero => exact (Nat.zero_mod c).symm
  | succ n ih => rw [mixLoop_succ, mixStep_j, ih, Nat.mod_add_mod]

/-! The sizes of one expansion (R121). -/

@[simp] theorem initTable_length (W : Width) (r : Nat) : (initTable W r).length = tableSize r :=
  progression_length (magicP W) (tableSize r)

@[simp] theorem pack_length (W : Width) (key : List Byte) : (pack W key).length = keyWords W key.length :=
  (packBytes_length key key.length _).trans List.length_replicate

/-! The expansion of one key. -/

/-- What the expansion of `key` under r works on after n iterations of Mix. -/
def expansionMix (W : Width) (key : List Byte) (r n : Nat) : MixState W :=
  mixLoop (tableSize r) (keyWords W key.length) n (mixStart (initTable W r) (pack W key))

theorem expansionMix_succ (W : Width) (key : List Byte) (r n : Nat) :
    expansionMix W key r (n + 1) = mixStep (tableSize r) (keyWords W key.length) (expansionMix W key r n) :=
  mixLoop_succ _ _ n _

theorem expansionMix_i (W : Width) (key : List Byte) (r n : Nat) : (expansionMix W key r n).i = n % tableSize r :=
  mixLoop_mixStart_i _ _ n _ _

theorem expansionMix_j (W : Width) (key : List Byte) (r n : Nat) :
    (expansionMix W key r n).j = n % keyWords W key.length :=
  mixLoop_mixStart_j _ _ n _ _

theorem expansionMix_s_length (W : Width) (key : List Byte) (r n : Nat) :
    (expansionMix W key r n).s.length = tableSize r :=
  (mixLoop_s_length _ _ n _).trans (initTable_length W r)

theorem expansionMix_l_length (W : Width) (key : List Byte) (r n : Nat) :
    (expansionMix W key r n).l.length = keyWords W key.length :=
  (mixLoop_l_length _ _ n _).trans (pack_length W key)

theorem expand_eq_expansionMix (W : Width) (key : List Byte) (r : Nat) :
    expand W key r = (expansionMix W key r (3 * max (tableSize r) (keyWords W key.length))).s := rfl

@[simp] theorem expand_length (W : Width) (key : List Byte) (r : Nat) : (expand W key r).length = tableSize r := by
  rw [expand_eq_expansionMix, expansionMix_s_length]

/-- Settles O20: the sequences are the fields of the expansion's states, whose indices are n mod t and n mod c. -/
theorem expandIsPackInitializeMix : Obligations.ExpandIsPackInitializeMix := by
  intro W key r
  refine ⟨tableSize r, keyWords W key.length,
    fun n => (expansionMix W key r n).s, fun n => (expansionMix W key r n).l,
    fun n => (expansionMix W key r n).ma, fun n => (expansionMix W key r n).mb,
    rfl, rfl, rfl, rfl, rfl, rfl,
    fun n => ⟨expansionMix_s_length W key r n, expansionMix_l_length W key r n⟩, fun n => ?_,
    expand_eq_expansionMix W key r, expand_length W key r⟩
  beta_reduce
  rw [expansionMix_succ, ← expansionMix_i W key r n, ← expansionMix_j W key r n]
  exact ⟨mixStep_ma _ _ _, mixStep_s _ _ _, mixStep_mb _ _ _, mixStep_l _ _ _⟩

end Sys2Proof.Machine
end

section
/-! The key a command uses, the table it writes back, and the block that EXPAND leaves (spec/43_key_schedule.md R127, R128;
spec/10_state.md R30). -/

namespace Sys2Proof.Machine

variable {W : Width}

/-- KEY[0..b) is the only key of a block (R30). -/
theorem eq_keyBytes_of_isKey {c : Chip W} {key : List Byte} (hkey : Claims.IsKey c key) : key = keyBytes c := by
  obtain ⟨hlen, hbyte⟩ := hkey
  refine List.ext_getElem (hlen.trans (keyBytes_length c).symm) fun i hi _ => ?_
  have hb : c.keylen.toNat < 256 := c.keylen.isLt
  rw [hbyte i hi (by omega)]
  simp [keyBytes]

theorem freshTable_of_isKey {c : Chip W} {key : List Byte} (hkey : Claims.IsKey c key) :
    freshTable c = expand W key c.rounds.toNat := by
  rw [eq_keyBytes_of_isKey hkey]
  rfl

theorem writeSubkeys_getElem_of_lt {T : List (Word W)} (s : Vector (Word W) 512) {k : Nat} (hk : k < 512)
    (hT : k < T.length) : (writeSubkeys T s)[k] = T[k] := by
  rw [writeSubkeys_getElem, List.getElem?_eq_getElem hT, Option.getD_some]

theorem writeSubkeys_getElem_of_le {T : List (Word W)} (s : Vector (Word W) 512) {k : Nat} (hk : k < 512)
    (hT : T.length ≤ k) : (writeSubkeys T s)[k] = s[k] := by
  rw [writeSubkeys_getElem, List.getElem?_eq_none hT, Option.getD_none]

/-- TLEN's ten bits hold the size of every table (R121). -/
theorem toNat_ofNat_tableSize_roundCount (c : Chip W) :
    (BitVec.ofNat 10 (tableSize (roundCount c))).toNat = 2 * (c.rounds.toNat + 1) := by
  have hr : c.rounds.toNat < 256 := c.rounds.isLt
  exact Nat.mod_eq_of_lt (show 2 * (c.rounds.toNat + 1) < 2 ^ 10 by omega)

/-- What the three key commands share: the fresh table's write-back (R127). -/
theorem tableWritten_storeTable {c : Chip W} {key : List Byte} (hkey : Claims.IsKey c key) (d : Nat) :
    Claims.TableWritten c (storeTable c (freshTable c) d) key := by
  rw [freshTable_of_isKey hkey]
  have hlen : (expand W key c.rounds.toNat).length = 2 * (c.rounds.toNat + 1) := expand_length W key c.rounds.toNat
  refine ⟨hlen, fun k hk hlt => ?_, fun k hk hle => ?_, toNat_ofNat_tableSize_roundCount c, rfl, rfl, rfl, rfl⟩
  · have hT : k < (expand W key c.rounds.toNat).length := by omega
    exact (List.getElem?_eq_getElem hT).trans (congrArg some (writeSubkeys_getElem_of_lt c.s hk hT).symm)
  · exact writeSubkeys_getElem_of_le c.s hk (by omega)

theorem exec_expand (c : Chip W) (h : HostSide W) (ts : List Turn) (d : Nat) :
    exec .expand ⟨W, c, h, ts, d⟩ =
      .next ⟨W, { storeTable c (freshTable c) d with status := c.status.completed }, h, ts, d + 1⟩ :=
  complete_eq (performExpand c d) c h ts (d + 1)

/-- Settles O21: EXPAND is the write-back of the fresh table and no more, for whatever values KEY holds. -/
theorem expandWritesTable : Obligations.ExpandWritesTable :=
  ⟨(decode_eq_ok_iff _ _).mpr rfl, fun _ c h ts d _ hkey =>
    ⟨_, d + 1, exec_expand c h ts d, rfl, tableWritten_storeTable hkey d, rfl, rfl⟩⟩

end Sys2Proof.Machine
end

section
/-! Encryption and decryption under any table: each half-round, each round and the whole of one undoes the other, and the
sequences of blocks they go through (spec/44_cipher.md R140, R141). -/

namespace Sys2Proof.Machine

variable {W : Width}

/-! The rotations undo each other: the bit each of them moves past the end of the Word is the one the other brings back
(R114). -/

@[simp] theorem rotl_rotr_cancel {w : Nat} (x : BitVec w) (k : Nat) : rotl (rotr x k) k = x := by
  rw [rotl_eq_rotateLeft, rotr_eq_rotateRight]
  ext i hi
  have hk : k % w < w := Nat.mod_lt k (by omega)
  rw [BitVec.getElem_rotateLeft]
  split
  · rw [BitVec.getElem_rotateRight, dif_neg (by omega)]
    congr 1
    omega
  · rw [BitVec.getElem_rotateRight, dif_pos (by omega)]
    congr 1
    omega

@[simp] theorem rotr_rotl_cancel {w : Nat} (x : BitVec w) (k : Nat) : rotr (rotl x k) k = x := by
  rw [rotl_eq_rotateLeft, rotr_eq_rotateRight]
  ext i hi
  have hk : k % w < w := Nat.mod_lt k (by omega)
  rw [BitVec.getElem_rotateRight]
  split
  · rw [BitVec.getElem_rotateLeft, dif_neg (by omega)]
    congr 1
    omega
  · rw [BitVec.getElem_rotateLeft, dif_pos (by omega)]
    congr 1
    omega

@[simp] theorem xor_xor_cancel_right {w : Nat} (x y : BitVec w) : x ^^^ y ^^^ y = x := by
  rw [BitVec.xor_assoc, BitVec.xor_self, BitVec.xor_zero]

/-! One round. -/

@[simp] theorem decryptRound_encryptRound (s : List (Word W)) (i : Nat) (p : Pair W) :
    decryptRound s i (encryptRound s i p) = p := by
  simp only [encryptRound, decryptRound, wrappingSub_wrappingAdd, rotr_rotl_cancel, xor_xor_cancel_right]

@[simp] theorem encryptRound_decryptRound (s : List (Word W)) (i : Nat) (p : Pair W) :
    encryptRound s i (decryptRound s i p) = p := by
  simp only [encryptRound, decryptRound, xor_xor_cancel_right, rotl_rotr_cancel, wrappingAdd_wrappingSub]

/-! All rounds: decryption starts with the round encryption ended with. -/

theorem encryptRounds_succ (s : List (Word W)) (r : Nat) (p : Pair W) :
    encryptRounds s (r + 1) p = encryptRound s (r + 1) (encryptRounds s r p) := rfl

theorem decryptRounds_succ (s : List (Word W)) (r : Nat) (p : Pair W) :
    decryptRounds s (r + 1) p = decryptRounds s r (decryptRound s (r + 1) p) := rfl

@[simp] theorem decryptRounds_encryptRounds (s : List (Word W)) (r : Nat) (p : Pair W) :
    decryptRounds s r (encryptRounds s r p) = p := by
  induction r with
  | zero => rfl
  | succ r ih => rw [encryptRounds_succ, decryptRounds_succ, decryptRound_encryptRound, ih]

@[simp] theorem encryptRounds_decryptRounds (s : List (Word W)) (r : Nat) (p : Pair W) :
    encryptRounds s r (decryptRounds s r p) = p := by
  induction r generalizing p with
  | zero => rfl
  | succ r ih => rw [decryptRounds_succ, encryptRounds_succ, ih, encryptRound_decryptRound]

/-! The whole cipher. -/

@[simp] theorem decrypt_encrypt (s : List (Word W)) (r : Nat) (p : Pair W) : decrypt s r (encrypt s r p) = p := by
  simp only [encrypt, decrypt, decryptRounds_encryptRounds, wrappingSub_wrappingAdd]

@[simp] theorem encrypt_decrypt (s : List (Word W)) (r : Nat) (p : Pair W) : encrypt s r (decrypt s r p) = p := by
  simp only [encrypt, decrypt, wrappingAdd_wrappingSub]
  exact encryptRounds_decryptRounds s r p

/-- The block before round 1 of encryption (R140). -/
def whitened (s : List (Word W)) (p : Pair W) : Pair W := (p.1 + s.getD 0 0, p.2 + s.getD 1 0)

theorem encrypt_eq_encryptRounds_whitened (s : List (Word W)) (r : Nat) (p : Pair W) :
    encrypt s r p = encryptRounds s r (whitened s p) := rfl

theorem encrypt_zero_rounds (s : List (Word W)) (p : Pair W) :
    encrypt s 0 p = (p.1 + s.getD 0 0, p.2 + s.getD 1 0) := rfl

theorem decrypt_zero_rounds (s : List (Word W)) (p : Pair W) :
    decrypt s 0 p = (p.1 - s.getD 0 0, p.2 - s.getD 1 0) := rfl

/-! The blocks after each round, from the block `p` before round 1. -/

theorem encryptRounds_eq_encryptRound_pred (s : List (Word W)) {i : Nat} (hi : 1 ≤ i) (p : Pair W) :
    encryptRounds s i p = encryptRound s i (encryptRounds s (i - 1) p) := by
  obtain ⟨n, rfl⟩ := Nat.exists_eq_add_of_le' hi
  exact encryptRounds_succ s n p

theorem encryptRounds_pred_eq_decryptRound (s : List (Word W)) {i : Nat} (hi : 1 ≤ i) (p : Pair W) :
    encryptRounds s (i - 1) p = decryptRound s i (encryptRounds s i p) := by
  rw [encryptRounds_eq_encryptRound_pred s hi, decryptRound_encryptRound]

/-- The words of a block after round i are those its two half-rounds give, the second of the new A (R140). -/
theorem words_of_eq_encryptRound {s : List (Word W)} {i : Nat} {p q : Pair W} (h : q = encryptRound s i p) :
    q.1 = rotl (p.1 ^^^ p.2) p.2.toNat + s.getD (2 * i) 0 ∧
      q.2 = rotl (p.2 ^^^ q.1) q.1.toNat + s.getD (2 * i + 1) 0 := by
  subst h
  exact ⟨rfl, rfl⟩

/-- The words of a block with round i undone, the second first, as A is undone with the new B (R141). -/
theorem words_of_eq_decryptRound {s : List (Word W)} {i : Nat} {p q : Pair W} (h : q = decryptRound s i p) :
    q.2 = rotr (p.2 - s.getD (2 * i + 1) 0) p.1.toNat ^^^ p.1 ∧
      q.1 = rotr (p.1 - s.getD (2 * i) 0) q.2.toNat ^^^ q.2 := by
  subst h
  exact ⟨rfl, rfl⟩

/-- Settles O24: the sequences are the words of the blocks after each round, from the whitened block on. -/
theorem encryptIsWhiteningThenRounds : Obligations.EncryptIsWhiteningThenRounds := fun _ s r p =>
  ⟨fun i => (encryptRounds s i (whitened s p)).1, fun i => (encryptRounds s i (whitened s p)).2, rfl, rfl,
    fun _ hi _ => words_of_eq_encryptRound (encryptRounds_eq_encryptRound_pred s hi (whitened s p)),
    encrypt_eq_encryptRounds_whitened s r p⟩

/-- Settles O25: as each round is undone exactly, decryption goes back through the blocks that the encryption rounds go
through from the block it ends at. -/
theorem decryptIsRoundsUndoneThenWhitening : Obligations.DecryptIsRoundsUndoneThenWhitening := by
  intro W s r p
  have htop : encryptRounds s r (decryptRounds s r p) = p := encryptRounds_decryptRounds s r p
  exact ⟨fun i => (encryptRounds s i (decryptRounds s r p)).1, fun i => (encryptRounds s i (decryptRounds s r p)).2,
    congrArg Prod.fst htop, congrArg Prod.snd htop,
    fun _ hi _ => words_of_eq_decryptRound (encryptRounds_pred_eq_decryptRound s hi _),
    rfl, decrypt_encrypt s r p, encrypt_decrypt s r p⟩

end Sys2Proof.Machine
end

section
/-! The blocks that ENCRYPT and DECRYPT leave (spec/44_cipher.md R142 to R144). -/

namespace Sys2Proof.Machine

variable {W : Width}

/-- What ENCRYPT and DECRYPT share: writing A and B and completing leave the table written as it was. -/
theorem tableWritten_setBlock {c : Chip W} {key : List Byte} (hkey : Claims.IsKey c key) (d : Nat) (p : Pair W)
    (st : Status) :
    Claims.TableWritten c { setBlock (storeTable c (freshTable c) d) p with status := st } key :=
  tableWritten_storeTable hkey d

theorem exec_encrypt (c : Chip W) (h : HostSide W) (ts : List Turn) (d : Nat) :
    exec .encrypt ⟨W, c, h, ts, d⟩ =
      .next ⟨W, { performEncrypt c d with status := c.status.completed }, h, ts, d + 1⟩ :=
  complete_eq (performEncrypt c d) c h ts (d + 1)

theorem exec_decrypt (c : Chip W) (h : HostSide W) (ts : List Turn) (d : Nat) :
    exec .decrypt ⟨W, c, h, ts, d⟩ =
      .next ⟨W, { performDecrypt c d with status := c.status.completed }, h, ts, d + 1⟩ :=
  complete_eq (performDecrypt c d) c h ts (d + 1)

theorem performEncrypt_block {c : Chip W} {key : List Byte} (hkey : Claims.IsKey c key) (d : Nat) :
    ((performEncrypt c d).a, (performEncrypt c d).b) =
      encrypt (expand W key c.rounds.toNat) c.rounds.toNat (c.a, c.b) := by
  rw [← freshTable_of_isKey hkey]
  rfl

theorem performDecrypt_block {c : Chip W} {key : List Byte} (hkey : Claims.IsKey c key) (d : Nat) :
    ((performDecrypt c d).a, (performDecrypt c d).b) =
      decrypt (expand W key c.rounds.toNat) c.rounds.toNat (c.a, c.b) := by
  rw [← freshTable_of_isKey hkey]
  rfl

/-- Settles O26: the write-back is EXPAND's, and the block is encrypted under the table written back. -/
theorem encryptUsesFreshTable : Obligations.EncryptUsesFreshTable :=
  ⟨(decode_eq_ok_iff _ _).mpr rfl, fun _ c h ts d _ hkey =>
    ⟨_, d + 1, exec_encrypt c h ts d, rfl, tableWritten_setBlock hkey d _ _, performEncrypt_block hkey d⟩⟩

/-- Settles O27: the write-back is EXPAND's, and the block is decrypted under the table written back. -/
theorem decryptUsesFreshTable : Obligations.DecryptUsesFreshTable :=
  ⟨(decode_eq_ok_iff _ _).mpr rfl, fun _ c h ts d _ hkey =>
    ⟨_, d + 1, exec_decrypt c h ts d, rfl, tableWritten_setBlock hkey d _ _, performDecrypt_block hkey d⟩⟩

/-! No rounds. -/

/-- Every table has entries 0 and 1, so S[0] and S[1] after a key command are its own (R127). -/
theorem freshTable_getD (c : Chip W) {k : Nat} (hk : k < 2) :
    (freshTable c).getD k 0 = (writeSubkeys (freshTable c) c.s)[k] := by
  have hlen : (freshTable c).length = 2 * (roundCount c + 1) := expand_length W (keyBytes c) (roundCount c)
  have hT : k < (freshTable c).length := by omega
  rw [writeSubkeys_getElem_of_lt c.s (by omega) hT]
  exact (List.getElem_eq_getD 0).symm

theorem performEncrypt_of_no_rounds {c : Chip W} (hr : roundCount c = 0) (d : Nat) :
    (performEncrypt c d).a = c.a + (performEncrypt c d).s[0] ∧
      (performEncrypt c d).b = c.b + (performEncrypt c d).s[1] := by
  have hblock : encrypt (freshTable c) (roundCount c) (c.a, c.b) =
      (c.a + (writeSubkeys (freshTable c) c.s)[0], c.b + (writeSubkeys (freshTable c) c.s)[1]) := by
    rw [hr, encrypt_zero_rounds, freshTable_getD c Nat.zero_lt_two, freshTable_getD c Nat.one_lt_two]
  rw [performEncrypt, setBlock_a, setBlock_b, setBlock_s, storeTable_s, hblock]
  exact ⟨rfl, rfl⟩

theorem performDecrypt_of_no_rounds {c : Chip W} (hr : roundCount c = 0) (d : Nat) :
    (performDecrypt c d).a = c.a - (performDecrypt c d).s[0] ∧
      (performDecrypt c d).b = c.b - (performDecrypt c d).s[1] := by
  have hblock : decrypt (freshTable c) (roundCount c) (c.a, c.b) =
      (c.a - (writeSubkeys (freshTable c) c.s)[0], c.b - (writeSubkeys (freshTable c) c.s)[1]) := by
    rw [hr, decrypt_zero_rounds, freshTable_getD c Nat.zero_lt_two, freshTable_getD c Nat.one_lt_two]
  rw [performDecrypt, setBlock_a, setBlock_b, setBlock_s, storeTable_s, hblock]
  exact ⟨rfl, rfl⟩

/-- Settles O28: with r = 0 the cipher is its whitening, by the two entries just written. -/
theorem zeroRoundsOnlyWhiten : Obligations.ZeroRoundsOnlyWhiten := by
  intro W c h ts d hrounds
  have hr : roundCount c = 0 := congrArg BitVec.toNat hrounds
  have htlen : BitVec.ofNat 10 (tableSize (roundCount c)) = 2 := by
    rw [hr]
    rfl
  exact ⟨⟨_, d + 1, exec_encrypt c h ts d, htlen, performEncrypt_of_no_rounds hr d⟩,
    ⟨_, d + 1, exec_decrypt c h ts d, htlen, performDecrypt_of_no_rounds hr d⟩⟩

end Sys2Proof.Machine
end

section
/-! What all eight commands share: each completes, and leaves STATUS's error fields and the registers only the host writes
(spec/60_exceptions.md R154). -/

namespace Sys2Proof.Machine

variable {W : Width}

theorem exec_nop (c : Chip W) (h : HostSide W) (ts : List Turn) (d : Nat) :
    exec .nop ⟨W, c, h, ts, d⟩ = .next ⟨W, { c with status := c.status.completed }, h, ts, d⟩ :=
  complete_eq c c h ts d

/-- Settles O6: each command's completed block is known in full, and differs from the old one in no register named. -/
theorem everyCommandRunsWithoutError : Obligations.EveryCommandRunsWithoutError := by
  intro W c h ts d i
  cases i with
  | nop => exact ⟨_, d, exec_nop c h ts d, rfl, rfl, rfl, rfl, rfl⟩
  | expand => exact ⟨_, d + 1, exec_expand c h ts d, rfl, rfl, rfl, rfl, rfl⟩
  | encrypt => exact ⟨_, d + 1, exec_encrypt c h ts d, rfl, rfl, rfl, rfl, rfl⟩
  | decrypt => exact ⟨_, d + 1, exec_decrypt c h ts d, rfl, rfl, rfl, rfl, rfl⟩
  | add => exact ⟨_, d, exec_add c h ts d, rfl, rfl, rfl, rfl, rfl⟩
  | sub => exact ⟨_, d, exec_sub c h ts d, rfl, rfl, rfl, rfl, rfl⟩
  | rotl => exact ⟨_, d, exec_rotl c h ts d, rfl, rfl, rfl, rfl, rfl⟩
  | rotr => exact ⟨_, d, exec_rotr c h ts d, rfl, rfl, rfl, rfl, rfl⟩

end Sys2Proof.Machine
end

section
/-! The errors a port write records, by the kind of its address: one that no write may go to, STATUS's, or one that the
busy check guards (spec/20_memory.md R47, spec/60_exceptions.md R152, R153). -/

namespace Sys2Proof.Machine

variable {W : Width}

/-! The three kinds of address. -/

theorem writable_of_unwritable {addr : PortAddr} (h : Claims.Unwritable addr) : (portReg addr).writable = false := by
  rcases h with hid | htlen | hs | hreserved
  · obtain rfl : addr = 0x000 := BitVec.eq_of_toNat_eq hid
    rfl
  · obtain rfl : addr = 0x005 := BitVec.eq_of_toNat_eq htlen
    rfl
  · obtain ⟨_, hreg⟩ := portReg_of_s_range hs
    rw [hreg]
    rfl
  · rw [portReg_of_reserved hreserved]
    rfl

/-- A guarded address passes the address check, and is not STATUS's. -/
theorem writable_and_ne_status_of_guarded {addr : PortAddr} (h : Claims.Guarded addr) :
    (portReg addr).writable = true ∧ portReg addr ≠ .status := by
  rcases h with hcmd | hrounds | hkeylen | ha | hb | ⟨hlo, hhi⟩
  · obtain rfl : addr = 0x001 := BitVec.eq_of_toNat_eq hcmd
    decide
  · obtain rfl : addr = 0x003 := BitVec.eq_of_toNat_eq hrounds
    decide
  · obtain rfl : addr = 0x004 := BitVec.eq_of_toNat_eq hkeylen
    decide
  · obtain rfl : addr = 0x006 := BitVec.eq_of_toNat_eq ha
    decide
  · obtain rfl : addr = 0x007 := BitVec.eq_of_toNat_eq hb
    decide
  · obtain ⟨_, hreg⟩ := portReg_of_key_range hlo hhi
    rw [hreg]
    exact ⟨rfl, PortReg.noConfusion⟩

theorem unwritable_or_status_or_guarded (addr : PortAddr) :
    Claims.Unwritable addr ∨ addr.toNat = 0x002 ∨ Claims.Guarded addr := by
  have hlt : addr.toNat < 2 ^ 10 := addr.isLt
  unfold Claims.Unwritable Claims.Guarded
  omega

/-! The writes that pass the address check. -/

/-- A STATUS write that leaves ERR set has cleared neither ERR nor its code. -/
theorem Status.written_error_kept {st : Status} {clearDone clearErr : Bool}
    (h : (st.written clearDone clearErr).err = true) :
    st.err = true ∧ (st.written clearDone clearErr).errCode = st.errCode := by
  cases clearErr with
  | false => exact ⟨h, rfl⟩
  | true => cases h

/-- Of the register writes, only CMD's touches STATUS (R48 to R52). -/
theorem writeReg_status_of_ne_cmd (c : Chip W) (data : PortData W) {reg : PortReg} (h : reg ≠ .cmd) :
    (writeReg c data reg).status = c.status := by
  cases reg with
  | cmd => exact absurd rfl h
  | _ => rfl

theorem portWrite_of_guarded_of_busy {c : Chip W} (hbusy : c.status.busy = true) (data : PortData W) {addr : PortAddr}
    (h : Claims.Guarded addr) : portWrite c addr data = raiseError .busyWrite c := by
  obtain ⟨hw, hs⟩ := writable_and_ne_status_of_guarded h
  exact portWrite_of_busy hbusy data hw hs

theorem portWrite_of_guarded_of_idle {c : Chip W} (hidle : c.status.busy = false) (data : PortData W) {addr : PortAddr}
    (h : Claims.Guarded addr) : portWrite c addr data = writeReg c data (portReg addr) := by
  obtain ⟨hw, hs⟩ := writable_and_ne_status_of_guarded h
  exact portWrite_of_idle hidle data hw hs

/-- A write an idle block lets through, if it is not of an illegal word to CMD, leaves ERR and ERRCODE (R90, R152). -/
theorem portWrite_error_kept_of_idle {c : Chip W} (hidle : c.status.busy = false) {data : PortData W} {addr : PortAddr}
    (h : Claims.Guarded addr) (hlegal : addr.toNat ≠ 0x001 ∨ ∃ i, data.setWidth 32 = encode i) :
    (portWrite c addr data).status.err = c.status.err ∧ (portWrite c addr data).status.errCode = c.status.errCode := by
  by_cases hcmd : addr = 0x001
  · subst hcmd
    obtain ⟨i, hword⟩ := hlegal.resolve_left (not_not_intro rfl)
    rw [portWrite_cmd_of_idle hidle, hword, acceptCommand_encode]
    exact ⟨rfl, rfl⟩
  · have hreg : portReg addr ≠ .cmd := mt (portReg_eq_cmd_iff addr).mp hcmd
    rw [portWrite_of_guarded_of_idle hidle data h, writeReg_status_of_ne_cmd c data hreg]
    exact ⟨rfl, rfl⟩

/-- Settles O39: one lemma for each kind of address, STATUS and CMD being the addresses 0x002 and 0x001. -/
theorem writeErrorPriority : Obligations.WriteErrorPriority := by
  refine fun W c addr data =>
    ⟨fun hunwritable => portWrite_of_not_writable c data (writable_of_unwritable hunwritable), fun hstatus => ?_,
      fun hguarded hbusy => portWrite_of_guarded_of_busy hbusy data hguarded, fun hcmd hidle hillegal => ?_,
      fun hguarded hidle => portWrite_error_kept_of_idle hidle hguarded, unwritable_or_status_or_guarded addr⟩
  · obtain rfl : addr = 0x002 := BitVec.eq_of_toNat_eq hstatus
    rw [portWrite_status, statusWrite_status]
    exact Status.written_error_kept
  · obtain rfl : addr = 0x001 := BitVec.eq_of_toNat_eq hcmd
    exact (portWrite_cmd_of_idle hidle data).trans (acceptCommand_of_ne_encode c hillegal)

end Sys2Proof.Machine
end

section
/-! The reset event, and what the registers with a defined reset value then hold and read as
(spec/70_reset_and_hazards.md R170, R171). -/

namespace Sys2Proof.Machine

variable {W : Width}

/-- A reset looks at nothing in the block it replaces, and leaves the host as it is (R170). -/
theorem step_reset (c : Chip W) (h : HostSide W) (ts : List Turn) (d : Nat) :
    step ⟨W, c, h, .reset :: ts, d⟩ = .next ⟨W, .atReset W d, h, ts, d + 1⟩ := rfl

/-- STATUS reads 0x00000000 after a reset (R171). -/
@[simp] theorem Status.atReset_word : Status.atReset.word = 0 := by decide

/-- CMD has no storage (R45). -/
theorem portRead_cmd (c : Chip W) (draw : Nat) : portRead c draw 0x001 = 0 := rfl

/-- Settles O47: the block after a reset is `Chip.atReset`, whatever it was before, and ID and CMD read the same from any
block. -/
theorem resetValues : Obligations.ResetValues := by
  refine ⟨fun W c h ts d => ⟨.atReset W d, d + 1, step_reset c h ts d, Status.atReset_word, rfl, Chip.atReset_rounds d,
    Chip.atReset_keylen d, Chip.atReset_tlen d, Chip.atReset_a d, Chip.atReset_b d, fun draw => ?_⟩, rfl, ?_⟩
  · exact ⟨toNat_portRead_id (.atReset W d) draw, portRead_cmd (.atReset W d) draw⟩
  · exact ⟨Status.atReset_word, Chip.atReset_rounds 0, Chip.atReset_keylen 0, Chip.atReset_tlen 0, BitVec.toNat_zero,
      BitVec.toNat_zero, toNat_portRead_id State.reset.chip 0⟩

end Sys2Proof.Machine
end

section
/-! The block each command leaves, in one form for all eight, and the registers each writes (spec/40_command.md R91, R96;
spec/10_state.md R39). -/

namespace Sys2Proof.Machine

variable {W : Width}

/-- The block once command i has been performed, STATUS still as it was (R96). -/
def performed (i : Instr) (c : Chip W) (d : Nat) : Chip W :=
  match i with
  | .nop => c
  | .expand => performExpand c d
  | .encrypt => performEncrypt c d
  | .decrypt => performDecrypt c d
  | .add => performAdd c
  | .sub => performSub c
  | .rotl => performRotl c
  | .rotr => performRotr c

/-- The block once command i is complete (R91). -/
def afterCommand (i : Instr) (c : Chip W) (d : Nat) : Chip W :=
  { performed i c d with status := c.status.completed }

/-- The draw number once command i is complete: the three key commands draw what L then holds (R32). -/
def drawsAfter (i : Instr) (d : Nat) : Nat :=
  if i ∈ [Instr.expand, Instr.encrypt, Instr.decrypt] then d + 1 else d

theorem exec_eq_next (i : Instr) (c : Chip W) (h : HostSide W) (ts : List Turn) (d : Nat) :
    exec i ⟨W, c, h, ts, d⟩ = .next ⟨W, afterCommand i c d, h, ts, drawsAfter i d⟩ := by
  cases i with
  | nop => exact exec_nop c h ts d
  | expand => exact exec_expand c h ts d
  | encrypt => exact exec_encrypt c h ts d
  | decrypt => exact exec_decrypt c h ts d
  | add => exact exec_add c h ts d
  | sub => exact exec_sub c h ts d
  | rotl => exact exec_rotl c h ts d
  | rotr => exact exec_rotr c h ts d

/-! What every command leaves. -/

@[simp] theorem afterCommand_status (i : Instr) (c : Chip W) (d : Nat) :
    (afterCommand i c d).status = c.status.completed := rfl
@[simp] theorem afterCommand_rounds (i : Instr) (c : Chip W) (d : Nat) : (afterCommand i c d).rounds = c.rounds := by
  cases i <;> rfl
@[simp] theorem afterCommand_keylen (i : Instr) (c : Chip W) (d : Nat) : (afterCommand i c d).keylen = c.keylen := by
  cases i <;> rfl
@[simp] theorem afterCommand_key (i : Instr) (c : Chip W) (d : Nat) : (afterCommand i c d).key = c.key := by
  cases i <;> rfl
@[simp] theorem afterCommand_pendOp (i : Instr) (c : Chip W) (d : Nat) : (afterCommand i c d).pendOp = c.pendOp := by
  cases i <;> rfl

theorem afterCommand_a_of_mem {i : Instr} (hi : i ∈ [Instr.nop, Instr.expand]) (c : Chip W) (d : Nat) :
    (afterCommand i c d).a = c.a := by
  simp only [List.mem_cons, List.not_mem_nil, or_false] at hi
  obtain rfl | rfl := hi <;> rfl

theorem afterCommand_b_of_not_mem {i : Instr} (hi : i ∉ [Instr.encrypt, Instr.decrypt]) (c : Chip W) (d : Nat) :
    (afterCommand i c d).b = c.b := by
  cases i with
  | encrypt | decrypt => simp at hi
  | _ => rfl

/-! The table, which the three key commands write back and no other command touches. -/

theorem afterCommand_table_of_mem {i : Instr} (hi : i ∈ [Instr.expand, Instr.encrypt, Instr.decrypt]) (c : Chip W)
    (d : Nat) :
    (afterCommand i c d).s = writeSubkeys (freshTable c) c.s ∧
      (afterCommand i c d).tlen = BitVec.ofNat 10 (tableSize (roundCount c)) := by
  simp only [List.mem_cons, List.not_mem_nil, or_false] at hi
  obtain rfl | rfl | rfl := hi <;> exact ⟨rfl, rfl⟩

theorem afterCommand_table_of_not_mem {i : Instr} (hi : i ∉ [Instr.expand, Instr.encrypt, Instr.decrypt]) (c : Chip W)
    (d : Nat) :
    (afterCommand i c d).s = c.s ∧ (afterCommand i c d).tlen = c.tlen ∧ (afterCommand i c d).l = c.l := by
  cases i with
  | expand | encrypt | decrypt => simp at hi
  | _ => exact ⟨rfl, rfl, rfl⟩

@[simp] theorem freshTable_length (c : Chip W) : (freshTable c).length = 2 * (c.rounds.toNat + 1) :=
  expand_length W (keyBytes c) (roundCount c)

/-- Past the table of the current ROUNDS, no command writes an entry of S (R127). -/
theorem afterCommand_s_getElem_of_le (i : Instr) (c : Chip W) (d : Nat) {k : Nat} (hk : k < 512)
    (hle : 2 * (c.rounds.toNat + 1) ≤ k) : (afterCommand i c d).s[k] = c.s[k] := by
  by_cases hi : i ∈ [Instr.expand, Instr.encrypt, Instr.decrypt]
  · rw [← freshTable_length] at hle
    simp only [(afterCommand_table_of_mem hi c d).1, writeSubkeys_getElem_of_le c.s hk hle]
  · simp only [(afterCommand_table_of_not_mem hi c d).1]

/-- The entries a key command writes are those of the fresh table (R127). -/
theorem afterCommand_s_getElem_of_lt {i : Instr} (hi : i ∈ [Instr.expand, Instr.encrypt, Instr.decrypt]) (c : Chip W)
    (d : Nat) {k : Nat} (hk : k < 512) (hlt : k < (freshTable c).length) :
    (afterCommand i c d).s[k] = (freshTable c)[k] := by
  simp only [(afterCommand_table_of_mem hi c d).1, writeSubkeys_getElem_of_lt c.s hk hlt]

/-- A CMD write that is rejected, the block being busy or the word no command's, only records an error (R90, R152). -/
theorem portWrite_cmd_of_rejected {c : Chip W} {data : PortData W}
    (hrej : c.status.busy = true ∨ ∀ i, data.setWidth 32 ≠ encode i) :
    ∃ code, portWrite c 0x001 data = raiseError code c := by
  cases hbusy : c.status.busy with
  | true => exact ⟨.busyWrite, portWrite_of_busy hbusy data rfl (by decide)⟩
  | false =>
    have hword := hrej.resolve_left (by simp [hbusy])
    exact ⟨.illegalCmd, (portWrite_cmd_of_idle hbusy data).trans (acceptCommand_of_ne_encode c hword)⟩

/-- Settles O30: the block each command leaves is known register by register, and a rejected CMD write records an error,
which touches ERR and ERRCODE alone. -/
theorem commandsWriteOnlyTheirRegisters : Obligations.CommandsWriteOnlyTheirRegisters := by
  refine ⟨fun W c h ts d i => ⟨afterCommand i c d, drawsAfter i d, exec_eq_next i c h ts d, rfl, rfl,
    afterCommand_rounds i c d, afterCommand_keylen i c d, afterCommand_key i c d, afterCommand_pendOp i c d,
    fun hi => afterCommand_a_of_mem hi c d, fun hi => afterCommand_b_of_not_mem hi c d, fun hi => ?_,
    fun k hk hle => afterCommand_s_getElem_of_le i c d hk hle⟩, fun W c data hrej => ?_⟩
  · obtain ⟨hs, htlen, hl⟩ := afterCommand_table_of_not_mem hi c d
    exact ⟨hs, htlen, hl, if_neg hi⟩
  · obtain ⟨code, hcode⟩ := portWrite_cmd_of_rejected hrej
    rw [hcode]
    rfl

/-! What the table and the block depend on. -/

theorem keyBytes_congr {c₁ c₂ : Chip W} (hlen : c₁.keylen = c₂.keylen)
    (hkey : ∀ (k : Nat) (hk : k < 255), k < c₁.keylen.toNat → c₁.key[k] = c₂.key[k]) : keyBytes c₁ = keyBytes c₂ := by
  refine List.ext_getElem (by simp [hlen]) fun k hk₁ hk₂ => ?_
  rw [keyBytes_length] at hk₁
  have hb : c₁.keylen.toNat < 256 := c₁.keylen.isLt
  simpa [keyBytes] using hkey k (by omega) hk₁

theorem freshTable_congr {c₁ c₂ : Chip W} (hrounds : c₁.rounds = c₂.rounds) (hkey : keyBytes c₁ = keyBytes c₂) :
    freshTable c₁ = freshTable c₂ := by
  rw [freshTable, freshTable, roundCount, roundCount, hrounds, hkey]

/-- Settles O23: both commands write back the fresh table, and both blocks have the same one. -/
theorem expansionDependsOnlyOnKeyAndRounds : Obligations.ExpansionDependsOnlyOnKeyAndRounds := by
  intro W c₁ c₂ h₁ h₂ ts₁ ts₂ d₁ d₂ i₁ i₂ hi₁ hi₂ hrounds hkeylen hkey
  have htable : freshTable c₁ = freshTable c₂ := freshTable_congr hrounds (keyBytes_congr hkeylen hkey)
  refine ⟨afterCommand i₁ c₁ d₁, drawsAfter i₁ d₁, afterCommand i₂ c₂ d₂, drawsAfter i₂ d₂,
    exec_eq_next i₁ c₁ h₁ ts₁ d₁, exec_eq_next i₂ c₂ h₂ ts₂ d₂, ?_, fun k hk hlt => ?_⟩
  · rw [(afterCommand_table_of_mem hi₁ c₁ d₁).2, (afterCommand_table_of_mem hi₂ c₂ d₂).2, roundCount, roundCount, hrounds]
  · rw [← freshTable_length] at hlt
    rw [afterCommand_s_getElem_of_lt hi₁ c₁ d₁ hk hlt, afterCommand_s_getElem_of_lt hi₂ c₂ d₂ hk (htable ▸ hlt)]
    simp only [htable]

theorem freshTable_afterCommand (i : Instr) (c : Chip W) (d : Nat) : freshTable (afterCommand i c d) = freshTable c :=
  freshTable_congr (afterCommand_rounds i c d) (by simp [keyBytes])

theorem roundCount_afterCommand (i : Instr) (c : Chip W) (d : Nat) : roundCount (afterCommand i c d) = roundCount c :=
  congrArg BitVec.toNat (afterCommand_rounds i c d)

theorem afterCommand_encrypt_block (c : Chip W) (d : Nat) :
    ((afterCommand .encrypt c d).a, (afterCommand .encrypt c d).b) =
      encrypt (freshTable c) (roundCount c) (c.a, c.b) := rfl

theorem afterCommand_decrypt_block (c : Chip W) (d : Nat) :
    ((afterCommand .decrypt c d).a, (afterCommand .decrypt c d).b) =
      decrypt (freshTable c) (roundCount c) (c.a, c.b) := rfl

/-- ENCRYPT and DECRYPT, in either order, give A and B back: the second works under the table of the first (R145). -/
theorem block_afterCommand_afterCommand {i₁ i₂ : Instr}
    (hi : (i₁, i₂) ∈ [(Instr.encrypt, Instr.decrypt), (Instr.decrypt, Instr.encrypt)]) (c : Chip W) (d₁ d₂ : Nat) :
    ((afterCommand i₂ (afterCommand i₁ c d₁) d₂).a, (afterCommand i₂ (afterCommand i₁ c d₁) d₂).b) = (c.a, c.b) := by
  simp only [List.mem_cons, List.not_mem_nil, or_false, Prod.mk.injEq] at hi
  obtain ⟨rfl, rfl⟩ | ⟨rfl, rfl⟩ := hi
  · rw [afterCommand_decrypt_block, freshTable_afterCommand, roundCount_afterCommand, afterCommand_encrypt_block,
      decrypt_encrypt]
  · rw [afterCommand_encrypt_block, freshTable_afterCommand, roundCount_afterCommand, afterCommand_decrypt_block,
      encrypt_decrypt]

/-- Settles O29: the cipher's round trip under one table, and the two commands using one table. -/
theorem encryptDecryptRoundTrip : Obligations.EncryptDecryptRoundTrip := by
  refine ⟨fun W s r p => ⟨decrypt_encrypt s r p, encrypt_decrypt s r p⟩, fun W c h ts d i₁ i₂ hi => ?_⟩
  have hblock := block_afterCommand_afterCommand hi c d (drawsAfter i₁ d)
  exact ⟨_, _, _, _, exec_eq_next i₁ c h ts d, exec_eq_next i₂ _ h ts _, congrArg Prod.fst hblock,
    congrArg Prod.snd hblock⟩

end Sys2Proof.Machine
end

section
/-! What a port write and a step can do to the block, said once for each, and what follows of every step: the registers
that only the host or only the engine writes, and the error that is kept (spec/10_state.md R30, R31; spec/20_memory.md R47,
R59; spec/60_exceptions.md R152). -/

namespace Sys2Proof.Machine

variable {W : Width}

/-! Port writes. -/

/-- The registers no write but CMD's reaches, and those no write reaches (R47, R50 to R52). -/
theorem writeReg_frame_of_ne_cmd (c : Chip W) (data : PortData W) {reg : PortReg} (h : reg ≠ .cmd) :
    (writeReg c data reg).status = c.status ∧ (writeReg c data reg).pendOp = c.pendOp ∧
      (writeReg c data reg).s = c.s ∧ (writeReg c data reg).tlen = c.tlen := by
  cases reg with
  | cmd => exact absurd rfl h
  | _ => exact ⟨rfl, rfl, rfl, rfl⟩

/-- The block that has accepted command i: the latch holds its opcode, and STATUS says it is pending (R90). -/
def withPending (i : Instr) (c : Chip W) : Chip W := { c with pendOp := opcode i, status := c.status.accepted }

@[simp] theorem withPending_status (i : Instr) (c : Chip W) : (withPending i c).status = c.status.accepted := rfl
@[simp] theorem withPending_pendOp (i : Instr) (c : Chip W) : (withPending i c).pendOp = opcode i := rfl
@[simp] theorem withPending_key (i : Instr) (c : Chip W) : (withPending i c).key = c.key := rfl

theorem portWrite_encode_of_idle {c : Chip W} (hidle : c.status.busy = false) {data : PortData W} {i : Instr}
    (hword : data.setWidth 32 = encode i) : portWrite c 0x001 data = withPending i c := by
  rw [portWrite_cmd_of_idle hidle, hword]
  exact acceptCommand_encode c i

/-- Everything a port write can do: record an error, clear STATUS bits, have a command accepted, or set one register. -/
theorem portWrite_outcomes (c : Chip W) (addr : PortAddr) (data : PortData W) :
    (∃ code, portWrite c addr data = raiseError code c) ∨
    (addr = 0x002 ∧ portWrite c addr data = statusWrite c data) ∨
    (c.status.busy = false ∧ addr = 0x001 ∧ ∃ i, data.setWidth 32 = encode i ∧
      portWrite c addr data = withPending i c) ∨
    (c.status.busy = false ∧ portReg addr ≠ .cmd ∧ portWrite c addr data = writeReg c data (portReg addr)) := by
  obtain ⟨_, h⟩ | ⟨hreg, h⟩ | ⟨_, _, _, h⟩ | ⟨_, _, hidle, h⟩ := portWrite_cases c addr data
  · exact .inl ⟨_, h⟩
  · exact .inr (.inl ⟨(portReg_eq_status_iff addr).mp hreg, h⟩)
  · exact .inl ⟨_, h⟩
  · by_cases hcmd : portReg addr = .cmd
    · by_cases hword : ∃ i, data.setWidth 32 = encode i
      · obtain ⟨i, hi⟩ := hword
        obtain rfl : addr = 0x001 := (portReg_eq_cmd_iff addr).mp hcmd
        exact .inr (.inr (.inl ⟨hidle, rfl, i, hi, portWrite_encode_of_idle hidle hi⟩))
      · rw [hcmd] at h
        exact .inl ⟨_, h.trans (acceptCommand_of_ne_encode c (not_exists.mp hword))⟩
    · exact .inr (.inr (.inr ⟨hidle, hcmd, h⟩))

theorem portWrite_table (c : Chip W) (addr : PortAddr) (data : PortData W) :
    (portWrite c addr data).s = c.s ∧ (portWrite c addr data).tlen = c.tlen := by
  obtain ⟨code, h⟩ | ⟨_, h⟩ | ⟨_, _, i, _, h⟩ | ⟨_, hcmd, h⟩ := portWrite_outcomes c addr data
  · rw [h]
    exact ⟨rfl, rfl⟩
  · rw [h]
    exact ⟨rfl, rfl⟩
  · rw [h]
    exact ⟨rfl, rfl⟩
  · rw [h]
    exact (writeReg_frame_of_ne_cmd c data hcmd).2.2

/-- A register write that changes KEY[k] is a write to that entry (R52). -/
theorem writeReg_key_changed {c : Chip W} {data : PortData W} {reg : PortReg} (hcmd : reg ≠ .cmd) {k : Nat} (hk : k < 255)
    (hne : (writeReg c data reg).key[k] ≠ c.key[k]) :
    reg = .key ⟨k, hk⟩ ∧ (writeReg c data reg).key[k] = data.setWidth 8 := by
  cases reg with
  | cmd => exact absurd rfl hcmd
  | key j =>
    have hkey : (writeReg c data (.key j)).key[k] = if j.val = k then data.setWidth 8 else c.key[k] :=
      Vector.getElem_set j.isLt hk
    by_cases hj : j.val = k
    · rw [if_pos hj] at hkey
      exact ⟨congrArg PortReg.key (Fin.ext hj), hkey⟩
    · rw [if_neg hj] at hkey
      exact absurd hkey hne
  | _ => exact absurd rfl hne

theorem portWrite_key_changed {c : Chip W} {addr : PortAddr} {data : PortData W} {k : Nat} (hk : k < 255)
    (hne : (portWrite c addr data).key[k] ≠ c.key[k]) :
    c.status.busy = false ∧ addr = BitVec.ofNat 10 (0x100 + k) ∧ (portWrite c addr data).key[k] = data.setWidth 8 := by
  obtain ⟨code, h⟩ | ⟨_, h⟩ | ⟨_, _, i, _, h⟩ | ⟨hidle, hcmd, h⟩ := portWrite_outcomes c addr data
  · simp [h] at hne
  · simp [h] at hne
  · simp [h] at hne
  · simp only [h] at hne ⊢
    obtain ⟨hreg, hvalue⟩ := writeReg_key_changed hcmd hk hne
    exact ⟨hidle, addr_of_portReg_key hreg, hvalue⟩

/-- A port write that makes an idle block busy is the acceptance of a command (R90). -/
theorem portWrite_sets_busy {c : Chip W} {addr : PortAddr} {data : PortData W} (hidle : c.status.busy = false)
    (hbusy : (portWrite c addr data).status.busy = true) :
    addr = 0x001 ∧ ∃ i, data.setWidth 32 = encode i ∧ (portWrite c addr data).pendOp = opcode i ∧
      (portWrite c addr data).status.done = false := by
  obtain ⟨code, h⟩ | ⟨_, h⟩ | ⟨_, haddr, i, hi, h⟩ | ⟨_, hcmd, h⟩ := portWrite_outcomes c addr data
  · simp [h, hidle] at hbusy
  · simp [h, hidle] at hbusy
  · rw [h]
    exact ⟨haddr, i, hi, rfl, rfl⟩
  · rw [h, (writeReg_frame_of_ne_cmd c data hcmd).1, hidle] at hbusy
    cases hbusy

/-- A recorded error outlives every port write but a STATUS write with data bit 2 set (R49, R152). -/
theorem portWrite_keeps_error {c : Chip W} {addr : PortAddr} {data : PortData W} (herr : c.status.err = true)
    (hclear : addr = 0x002 → data.getLsbD 2 = false) :
    (portWrite c addr data).status.err = true ∧ (portWrite c addr data).status.errCode = c.status.errCode := by
  obtain ⟨code, h⟩ | ⟨haddr, h⟩ | ⟨_, _, i, _, h⟩ | ⟨_, hcmd, h⟩ := portWrite_outcomes c addr data
  · simp [h, herr]
  · simp [h, herr, hclear haddr]
  · simp [h, herr]
  · rw [h, (writeReg_frame_of_ne_cmd c data hcmd).1]
    exact ⟨herr, rfl⟩

/-! Steps. -/

/-- What a step can make of the block `c` of the machine ⟨W, c, h, ts, d⟩. -/
inductive BlockStep (c : Chip W) (h : HostSide W) (ts : List Turn) (d : Nat) : Chip W → Prop where
  /-- No port write and no completion: the block stays as it is. -/
  | still : BlockStep c h ts d c
  /-- The host moves, and its line is a port write. -/
  | write (addr : PortAddr) (data : PortData W) (hmoves : ts.head? = some .host ∨ (ts = [] ∧ c.status.busy = false))
      (hline : h.script[h.line]? = some (.write addr data)) : BlockStep c h ts d (portWrite c addr data)
  /-- The platform asserts the reset. -/
  | reset (hmoves : ts.head? = some .reset) : BlockStep c h ts d (.atReset W d)
  /-- The engine moves, and command i is pending. -/
  | complete (i : Instr) (hmoves : ts.head? = some .engine ∨ ts = []) (hbusy : c.status.busy = true)
      (hop : c.pendOp = opcode i) : BlockStep c h ts d (afterCommand i c d)

/-- Every step is one of `BlockStep`'s four for the block, and keeps the width. -/
theorem blockStep_of_step {c : Chip W} {h : HostSide W} {ts : List Turn} {d : Nat} {t : State}
    (hs : step ⟨W, c, h, ts, d⟩ = .next t) :
    ∃ c' h' ts' d', t = ⟨W, c', h', ts', d'⟩ ∧ BlockStep c h ts d c' := by
  obtain ⟨ts', hts, ht⟩ | ⟨ts', hts, ht⟩ | ⟨ts', i, hts, hbusy, hop, he⟩ | ⟨ts', _, _, ht⟩ := step_cases hs
  · obtain ⟨c', h', d', hturn, _, hc'⟩ := hostTurn_cases c h ts' d
    refine ⟨c', h', ts', d', ht.trans hturn, ?_⟩
    obtain rfl | ⟨addr, data, hline, rfl⟩ := hc'
    · exact .still
    · refine .write addr data ?_ hline
      obtain rfl | ⟨hnil, _, hidle⟩ := hts
      · exact .inl rfl
      · exact .inr ⟨hnil, hidle⟩
  · exact ⟨_, _, _, _, ht, .reset (by rw [hts]; rfl)⟩
  · rw [exec_eq_next] at he
    cases he
    refine ⟨_, _, _, _, rfl, .complete i ?_ hbusy ((decodeOpcode_eq_some_iff _ _).mp hop)⟩
    obtain rfl | ⟨hnil, _⟩ := hts
    · exact .inl rfl
    · exact .inr hnil
  · exact ⟨_, _, _, _, ht, .still⟩

theorem blockStep_of_step_eq {c c' : Chip W} {h h' : HostSide W} {ts ts' : List Turn} {d d' : Nat}
    (hs : step ⟨W, c, h, ts, d⟩ = .next ⟨W, c', h', ts', d'⟩) : BlockStep c h ts d c' := by
  obtain ⟨_, _, _, _, ht, hblock⟩ := blockStep_of_step hs
  cases ht
  exact hblock

/-! Who writes what. -/

/-- Settles O31: of the four things a step can do, only a port write touches KEY, apart from a reset. -/
theorem onlyHostWritesKey : Obligations.OnlyHostWritesKey := by
  intro W c c' h h' ts ts' d d' hs hnreset k hk hne
  cases blockStep_of_step_eq hs with
  | still => exact absurd rfl hne
  | write addr data _ hline =>
    obtain ⟨hidle, rfl, hvalue⟩ := portWrite_key_changed hk hne
    exact ⟨hidle, data, hline, hvalue⟩
  | reset hmoves => exact absurd hmoves hnreset
  | complete i _ _ _ => exact absurd (by rw [afterCommand_key]) hne

/-- The key commands are those of opcodes 0x1, 0x2 and 0x3 (R82). -/
theorem opcode_of_mem_keyCommands {i : Instr} (hi : i ∈ [Instr.expand, Instr.encrypt, Instr.decrypt]) :
    opcode i = 0x1 ∨ opcode i = 0x2 ∨ opcode i = 0x3 := by
  simp only [List.mem_cons, List.not_mem_nil, or_false] at hi
  obtain rfl | rfl | rfl := hi <;> decide

/-- Settles O32: no port write touches the table, and of the commands only the three key commands do. -/
theorem onlyKeyCommandsWriteTable : Obligations.OnlyKeyCommandsWriteTable := by
  intro W c c' h h' ts ts' d d' hs hnreset hne
  rw [← not_and_or] at hne
  cases blockStep_of_step_eq hs with
  | still => exact absurd ⟨rfl, rfl⟩ hne
  | write addr data _ _ => exact absurd (portWrite_table c addr data) hne
  | reset hmoves => exact absurd hmoves hnreset
  | complete i hmoves hbusy hop =>
    refine ⟨hbusy, hmoves, ?_⟩
    rw [hop]
    refine opcode_of_mem_keyCommands (by_contra fun hi => hne ?_)
    obtain ⟨hsame, htlen, _⟩ := afterCommand_table_of_not_mem hi c d
    exact ⟨hsame, htlen⟩

/-- Settles O33: a reset and a completion leave BUSY = 0, and the one port write that sets it is an acceptance. -/
theorem onlyAcceptanceSetsBusy : Obligations.OnlyAcceptanceSetsBusy := by
  intro W c c' h h' ts ts' d d' hs hidle hbusy
  cases blockStep_of_step_eq hs with
  | still => exact absurd (hidle.symm.trans hbusy) Bool.false_ne_true
  | write addr data _ hline =>
    obtain ⟨rfl, i, hword, hop, hdone⟩ := portWrite_sets_busy hidle hbusy
    exact ⟨data, i, hline, (setWidth_eq_encode_iff data i).mp hword, hop, hdone⟩
  | reset _ => cases hbusy
  | complete i _ _ _ => cases hbusy

/-- Settles O43: completions keep ERR and ERRCODE, and so does every port write the statement lets the host make. -/
theorem firstErrorIsKept : Obligations.FirstErrorIsKept := by
  intro W c c' h h' ts ts' d d' hs herr hnreset hclear
  cases blockStep_of_step_eq hs with
  | still => exact ⟨herr, rfl⟩
  | write addr data hmoves hline =>
    refine portWrite_keeps_error herr ?_
    rintro rfl
    exact hclear hmoves data hline
  | reset hmoves => exact absurd hmoves hnreset
  | complete i _ _ _ => exact ⟨herr, rfl⟩

end Sys2Proof.Machine
end

section
/-! The invariant of the block: what a reset leaves meets it, and each thing a step can do keeps it; from a legal state no
step stops (spec/10_state.md R24, R27; spec/40_command.md R96). -/

namespace Sys2Proof.Machine

variable {W : Width}

@[simp] theorem legal_atReset (W : Width) (d : Nat) : (Chip.atReset W d).Legal :=
  ⟨⟨fun hbusy => (Bool.false_ne_true hbusy).elim, fun _ => rfl⟩, .inl rfl, fun hbusy => (Bool.false_ne_true hbusy).elim⟩

/-- Settles O49: `State.reset` and every `State.resetAt` hold the block of a reset. -/
theorem resetStateLegal : Obligations.ResetStateLegal := ⟨legal_atReset .w32 0, fun W => legal_atReset W 0⟩

theorem legal_raiseError {c : Chip W} (hc : c.Legal) (code : ErrCode) : (raiseError code c).Legal := by
  obtain ⟨⟨hdone, _⟩, htlen, hop⟩ := hc
  exact ⟨⟨hdone, fun herr => (Bool.false_ne_true herr.symm).elim⟩, htlen, hop⟩

/-- Write-one-to-clear clears ERRCODE with ERR, and never sets DONE (R49). -/
theorem Status.Legal.written {st : Status} (hst : st.Legal) (clearDone clearErr : Bool) :
    (st.written clearDone clearErr).Legal := by
  obtain ⟨hdone, herr⟩ := hst
  constructor
  · intro hbusy
    rw [Status.written_done, hdone hbusy, ite_self]
  · cases clearErr with
    | false => exact herr
    | true => exact fun _ => rfl

theorem legal_statusWrite {c : Chip W} (hc : c.Legal) (data : PortData W) : (statusWrite c data).Legal := by
  obtain ⟨hst, htlen, hop⟩ := hc
  exact ⟨hst.written _ _, htlen, hop⟩

theorem opcode_lt_eight (i : Instr) : (opcode i).toNat < 8 := (exists_eq_opcode_iff (opcode i)).mp ⟨i, rfl⟩

theorem legal_withPending {c : Chip W} (hc : c.Legal) (i : Instr) : (withPending i c).Legal := by
  obtain ⟨⟨_, herr⟩, htlen, _⟩ := hc
  exact ⟨⟨fun _ => rfl, herr⟩, htlen, fun _ => opcode_lt_eight i⟩

theorem legal_portWrite {c : Chip W} (hc : c.Legal) (addr : PortAddr) (data : PortData W) :
    (portWrite c addr data).Legal := by
  obtain ⟨code, h⟩ | ⟨_, h⟩ | ⟨_, _, i, _, h⟩ | ⟨_, hcmd, h⟩ := portWrite_outcomes c addr data
  · rw [h]
    exact legal_raiseError hc code
  · rw [h]
    exact legal_statusWrite hc data
  · rw [h]
    exact legal_withPending hc i
  · obtain ⟨hstatus, hpendOp, _, htlen⟩ := writeReg_frame_of_ne_cmd c data hcmd
    rw [h, Chip.Legal, hstatus, hpendOp, htlen]
    exact hc

/-- The size of a table, 2·(r+1) with r ≤ 255, is an even number from 2 to 512 (R27, R121). -/
theorem tlenLegal_tableSize (c : Chip W) : tlenLegal (BitVec.ofNat 10 (tableSize (roundCount c))) := by
  have hr : c.rounds.toNat < 256 := c.rounds.isLt
  rw [tlenLegal, toNat_ofNat_tableSize_roundCount]
  omega

theorem legal_afterCommand {c : Chip W} (hc : c.Legal) (i : Instr) (d : Nat) : (afterCommand i c d).Legal := by
  obtain ⟨⟨_, herr⟩, htlen, _⟩ := hc
  refine ⟨⟨fun hbusy => (Bool.false_ne_true hbusy).elim, herr⟩, ?_, fun hbusy => (Bool.false_ne_true hbusy).elim⟩
  by_cases hi : i ∈ [Instr.expand, Instr.encrypt, Instr.decrypt]
  · rw [(afterCommand_table_of_mem hi c d).2]
    exact tlenLegal_tableSize c
  · rw [(afterCommand_table_of_not_mem hi c d).2.1]
    exact htlen

theorem BlockStep.legal {c c' : Chip W} {h : HostSide W} {ts : List Turn} {d : Nat} (hstep : BlockStep c h ts d c')
    (hc : c.Legal) : c'.Legal := by
  cases hstep with
  | still => exact hc
  | write addr data _ _ => exact legal_portWrite hc addr data
  | reset _ => exact legal_atReset W d
  | complete i _ _ _ => exact legal_afterCommand hc i d

/-- The codes are 0x0 to 0x3 (R151). -/
theorem ErrCode.bits_le (e : ErrCode) : e.bits.toNat ≤ 3 := by cases e <;> decide

/-- Settles O50: each of the four things a step can make of the block keeps the invariant. -/
theorem stepKeepsLegal : Obligations.StepKeepsLegal := by
  rintro ⟨W, c, h, ts, d⟩ t hc hs
  obtain ⟨c', h', ts', d', rfl, hblock⟩ := blockStep_of_step hs
  exact ⟨hblock.legal hc, ErrCode.bits_le c'.status.errCode⟩

/-! From a legal state no step stops. -/

/-- A legal block's pending opcode is a command's (R96). -/
theorem exists_pending_of_legal {c : Chip W} (hc : c.Legal) (hbusy : c.status.busy = true) : ∃ i, c.pendOp = opcode i :=
  (exists_eq_opcode_iff c.pendOp).mpr (hc.2.2 hbusy)

/-- The engine's turn at a busy block completes the command its latch holds (R91). -/
theorem engineTurn_pending {c : Chip W} {i : Instr} (h : HostSide W) (ts : List Turn) (d : Nat)
    (hbusy : c.status.busy = true) (hop : c.pendOp = opcode i) :
    engineTurn ⟨W, c, h, ts, d⟩ = .next ⟨W, afterCommand i c d, h, ts, drawsAfter i d⟩ := by
  rw [engineTurn_busy h ts d hbusy ((decodeOpcode_eq_some_iff _ _).mpr hop), exec_eq_next]

theorem exists_engineTurn_eq_next {c : Chip W} (hc : c.Legal) (h : HostSide W) (ts : List Turn) (d : Nat) :
    ∃ t, engineTurn ⟨W, c, h, ts, d⟩ = .next t := by
  cases hbusy : c.status.busy with
  | false => exact ⟨_, engineTurn_idle h ts d hbusy⟩
  | true =>
    obtain ⟨i, hop⟩ := exists_pending_of_legal hc hbusy
    exact ⟨_, engineTurn_pending h ts d hbusy hop⟩

theorem step_host (c : Chip W) (h : HostSide W) (ts : List Turn) (d : Nat) :
    step ⟨W, c, h, .host :: ts, d⟩ = .next (hostTurn ⟨W, c, h, ts, d⟩) := rfl

/-- With no turn left, the engine moves at a busy block and the host at an idle one (R94). -/
theorem step_nil_of_busy {c : Chip W} (hbusy : c.status.busy = true) (h : HostSide W) (d : Nat) :
    step ⟨W, c, h, [], d⟩ = engineTurn ⟨W, c, h, [], d⟩ := if_pos hbusy

theorem step_nil_of_idle {c : Chip W} (hidle : c.status.busy = false) (h : HostSide W) (d : Nat) :
    step ⟨W, c, h, [], d⟩ = .next (hostTurn ⟨W, c, h, [], d⟩) := if_neg (by simp [hidle])

theorem exists_step_eq_next {c : Chip W} (hc : c.Legal) (h : HostSide W) (ts : List Turn) (d : Nat) :
    ∃ t, step ⟨W, c, h, ts, d⟩ = .next t := by
  match ts with
  | .host :: ts => exact ⟨_, step_host c h ts d⟩
  | .engine :: ts => exact exists_engineTurn_eq_next hc h ts d
  | .reset :: ts => exact ⟨_, step_reset c h ts d⟩
  | [] =>
    cases hbusy : c.status.busy with
    | false => exact ⟨_, step_nil_of_idle hbusy h d⟩
    | true =>
      rw [step_nil_of_busy hbusy]
      exact exists_engineTurn_eq_next hc h [] d

/-- Settles O51: the engine stops only at a latch no legal state has, and ID is a function of the width alone. -/
theorem stepKeepsWidthAndNeverStops : Obligations.StepKeepsWidthAndNeverStops := by
  rintro ⟨W, c, h, ts, d⟩ hc
  obtain ⟨t, ht⟩ := exists_step_eq_next hc h ts d
  obtain ⟨c', h', ts', d', rfl, _⟩ := blockStep_of_step ht
  exact ⟨_, ht, rfl, fun draw => (toNat_portRead_id c' draw).trans (toNat_portRead_id c draw).symm⟩

end Sys2Proof.Machine
end

section
/-! Reads: what the address of each register reads, and the one free value that a busy block reads as where the engine may
be at work (spec/20_memory.md R45, R46). -/

namespace Sys2Proof.Machine

variable {W : Width}

/-! STATUS's word. -/

/-- The fields of STATUS at their bits, the reserved ones 0 (R23). -/
theorem Status.toNat_word (st : Status) :
    st.word.toNat = st.busy.toNat + 2 * st.done.toNat + 4 * st.err.toNat + 16 * st.errCode.bits.toNat := by
  obtain ⟨busy, done, err, errCode⟩ := st
  cases busy <;> cases done <;> cases err <;> cases errCode <;> rfl

theorem portRead_status (c : Chip W) (d : Nat) : portRead c d 0x002 = c.status.word.setWidth W.portBits := rfl

/-! The registers the engine may be changing. -/

theorem unlessBusy_of_busy {c : Chip W} (hbusy : c.status.busy = true) (d : Nat) (value : PortData W) :
    unlessBusy c d value = Config.busyRead W d := if_pos hbusy

theorem unlessBusy_of_idle {c : Chip W} (hidle : c.status.busy = false) (d : Nat) (value : PortData W) :
    unlessBusy c d value = value := if_neg (by simp [hidle])

theorem portRead_tlen_of_idle {c : Chip W} (hidle : c.status.busy = false) (d : Nat) :
    portRead c d 0x005 = c.tlen.setWidth W.portBits := unlessBusy_of_idle hidle d _

theorem portRead_s_of_idle {c : Chip W} (hidle : c.status.busy = false) (d : Nat) {k : Nat} (hk : k < 512) :
    portRead c d (BitVec.ofNat 10 (0x200 + k)) = c.s[k].setWidth W.portBits := by
  rw [portRead, portReg_s k hk]
  exact unlessBusy_of_idle hidle d _

/-- While busy, TLEN, A, B and S read as the free value of the draw (R46). -/
theorem portRead_of_busy {c : Chip W} (hbusy : c.status.busy = true) (d : Nat) {addr : PortAddr}
    (haddr : addr.toNat = 0x005 ∨ addr.toNat = 0x006 ∨ addr.toNat = 0x007 ∨ 0x200 ≤ addr.toNat) :
    portRead c d addr = Config.busyRead W d := by
  rcases haddr with htlen | ha | hb | hs
  · obtain rfl : addr = 0x005 := BitVec.eq_of_toNat_eq htlen
    exact unlessBusy_of_busy hbusy d _
  · obtain rfl : addr = 0x006 := BitVec.eq_of_toNat_eq ha
    exact unlessBusy_of_busy hbusy d _
  · obtain rfl : addr = 0x007 := BitVec.eq_of_toNat_eq hb
    exact unlessBusy_of_busy hbusy d _
  · obtain ⟨_, hreg⟩ := portReg_of_s_range hs
    rw [portRead, hreg]
    exact unlessBusy_of_busy hbusy d _

/-- Settles O37: both blocks answer with the free value of that draw. -/
theorem busyReadsRevealNothing : Obligations.BusyReadsRevealNothing := fun _ _ _ d _ hbusy₁ hbusy₂ haddr =>
  (portRead_of_busy hbusy₁ d haddr).trans (portRead_of_busy hbusy₂ d haddr).symm

/-- Settles O36: each register is read whole, since none is wider than the port. -/
theorem portReadReturnsRegisterValue : Obligations.PortReadReturnsRegisterValue := by
  intro W c d
  have hword : ∀ x : Word W, (x.setWidth W.portBits).toNat = x.toNat := fun x =>
    BitVec.toNat_setWidth_of_le (Width.bits_le_portBits W)
  refine ⟨?_, ?_, ?_, ?_, fun k hk => ?_, fun addr haddr => portRead_of_reserved c d (portReg_of_reserved haddr),
    fun hidle => ⟨?_, ?_, ?_, fun k hk => ?_⟩⟩
  · rw [portRead_cmd]
    exact BitVec.toNat_zero
  · rw [portRead_status, toNat_setWidth_portBits le_rfl, Status.toNat_word]
  · rw [portRead_rounds, toNat_setWidth_portBits (by decide)]
  · rw [portRead_keylen, toNat_setWidth_portBits (by decide)]
  · rw [portRead_key c d hk, toNat_setWidth_portBits (by decide)]
  · rw [portRead_tlen_of_idle hidle, toNat_setWidth_portBits (by decide)]
  · rw [portRead_a_of_idle d hidle, hword]
  · rw [portRead_b_of_idle d hidle, hword]
  · rw [portRead_s_of_idle hidle d hk, hword]

end Sys2Proof.Machine
end

section
/-! A port write made twice (spec/20_memory.md R47 to R52; spec/60_exceptions.md R152). -/

namespace Sys2Proof.Machine

variable {W : Width}

/-- The first error keeps its code, so recording another changes nothing (R152). -/
@[simp] theorem raiseError_raiseError (code : ErrCode) (c : Chip W) :
    raiseError code (raiseError code c) = raiseError code c := rfl

@[simp] theorem Status.written_written (st : Status) (clearDone clearErr : Bool) :
    (st.written clearDone clearErr).written clearDone clearErr = st.written clearDone clearErr := by
  cases clearDone <;> cases clearErr <;> rfl

theorem statusWrite_statusWrite (c : Chip W) (data : PortData W) :
    statusWrite (statusWrite c data) data = statusWrite c data := by
  rw [statusWrite, statusWrite_status, Status.written_written]
  rfl

theorem writeReg_writeReg_of_ne_cmd (c : Chip W) (data : PortData W) {reg : PortReg} (h : reg ≠ .cmd) :
    writeReg (writeReg c data reg) data reg = writeReg c data reg := by
  cases reg with
  | cmd => exact absurd rfl h
  | key k => simp [writeReg]
  | _ => rfl

/-- Settles O42: the second write passes or fails the same checks as the first, and does again what the first did. -/
theorem repeatedWriteIsIdempotent : Obligations.RepeatedWriteIsIdempotent := by
  intro W c addr data hne
  have hcmd : portReg addr ≠ .cmd := fun h => hne (congrArg BitVec.toNat ((portReg_eq_cmd_iff addr).mp h))
  obtain ⟨hw, h⟩ | ⟨hs, h⟩ | ⟨hw, hs, hbusy, h⟩ | ⟨hw, hs, hidle, h⟩ := portWrite_cases c addr data
  · rw [h, portWrite_of_not_writable _ data hw, raiseError_raiseError]
  · obtain rfl : addr = 0x002 := (portReg_eq_status_iff addr).mp hs
    rw [h, portWrite_status, statusWrite_statusWrite]
  · have hbusy' : (raiseError .busyWrite c).status.busy = true := hbusy
    rw [h, portWrite_of_busy hbusy' data hw hs, raiseError_raiseError]
  · have hidle' : (writeReg c data (portReg addr)).status.busy = false := by
      rw [(writeReg_frame_of_ne_cmd c data hcmd).1, hidle]
    rw [h, portWrite_of_idle hidle' data hw hs, writeReg_writeReg_of_ne_cmd c data hcmd]

end Sys2Proof.Machine
end

section
/-! The laws the spec requires of the rotations, and the constants of every width (spec/41_wordops.md R103, R104;
spec/42_rotate.md R114, R115). -/

namespace Sys2Proof.Machine

variable {W : Width}

/-! The rotations look at their amount modulo W. -/

@[simp] theorem rotl_mod {w : Nat} (x : BitVec w) (k : Nat) : rotl x (k % w) = rotl x k := by
  rw [rotl, rotl, Nat.mod_mod]

@[simp] theorem rotr_mod {w : Nat} (x : BitVec w) (k : Nat) : rotr x (k % w) = rotr x k := by
  rw [rotr, rotr, Nat.mod_mod]

/-- Amounts that agree modulo W rotate alike (R114). -/
theorem rotl_congr {w : Nat} (x : BitVec w) {k k' : Nat} (h : k % w = k' % w) : rotl x k = rotl x k' := by
  rw [← rotl_mod x k, h, rotl_mod]

/-- A left rotation is the right rotation by the rest of the Word: the same two shifts (R114). -/
theorem rotl_eq_rotr {w : Nat} (x : BitVec w) (k : Nat) : rotl x k = rotr x ((w - k % w) % w) := by
  rw [rotr_mod]
  by_cases hk : k % w = 0
  · rw [rotl_of_mod_eq_zero x hk, rotr_of_mod_eq_zero x (by rw [hk, Nat.sub_zero, Nat.mod_self])]
  · rcases Nat.eq_zero_or_pos w with rfl | hw
    · exact Subsingleton.elim _ _
    · have hlt : k % w < w := Nat.mod_lt k hw
      have hrest : (w - k % w) % w = w - k % w := Nat.mod_eq_of_lt (by omega)
      simp only [rotl, rotr, hrest]
      rw [if_neg hk, if_neg (by omega), Nat.sub_sub_self hlt.le, BitVec.or_comm]

/-- Settles O13: the laws hold at every bit width, so at the five the block has. -/
theorem rotationIdentities : Obligations.RotationIdentities := fun _ x k =>
  ⟨rotl_of_mod_eq_zero x (Nat.zero_mod _), rotl_of_mod_eq_zero x (Nat.mod_self _), rotl_rotr_cancel x k,
    rotr_rotl_cancel x k, rotl_eq_rotr x k, fun _ => rotl_congr x⟩

/-- Every width is a power of two (R6). -/
theorem Width.bits_eq_two_pow_log2 (W : Width) : W.bits = 2 ^ Nat.log2 W.bits := by cases W <;> decide

/-- So a number of W bits keeps its residue modulo W when it is cut to a Word (R115). -/
theorem Width.bits_dvd_two_pow_bits (W : Width) : W.bits ∣ 2 ^ W.bits := by
  conv_lhs => rw [Width.bits_eq_two_pow_log2 W]
  exact pow_dvd_pow 2 (Nat.log2_le_self W.bits)

/-- Settles O14: W is the power of two the amounts are cut by, and divides 2^W. -/
theorem rotationUsesLowAmountBits : Obligations.RotationUsesLowAmountBits := by
  intro W x y z k
  refine ⟨Width.bits_eq_two_pow_log2 W, ?_, ?_, rotl_congr x ?_⟩
  · rw [← Width.bits_eq_two_pow_log2, rotl_mod]
  · rw [← Width.bits_eq_two_pow_log2, rotr_mod]
  · rw [wrappingAdd_toNat, Nat.mod_mod_of_dvd _ (Width.bits_dvd_two_pow_bits W)]

/-- Settles O15: the table of R104, read off. -/
theorem magicConstantsOfEveryWidth : Obligations.MagicConstantsOfEveryWidth :=
  ⟨⟨rfl, rfl⟩, ⟨rfl, rfl⟩, ⟨rfl, rfl⟩, ⟨rfl, rfl⟩, ⟨rfl, rfl⟩, fun W => by cases W <;> exact ⟨rfl, rfl⟩⟩

end Sys2Proof.Machine
end

section
/-! The words of the opcode map and of its neighbours (spec/30_encoding.md R82, R83). -/

namespace Sys2Proof.Machine

/-- Settles O1: the eight legal words are the encoder's, and the four illegal ones are evaluated. -/
theorem specWordsDecode : Obligations.SpecWordsDecode := by
  refine ⟨?_, ?_, ?_, ?_, ?_, ?_, ?_, ?_, by decide, by decide, by decide, by decide⟩ <;>
    exact (decode_eq_ok_iff _ _).mpr rfl

end Sys2Proof.Machine
end

section
/-! The entries of Initialize's table and what one iteration of Mix writes (spec/43_key_schedule.md R124 to R126). -/

namespace Sys2Proof.Machine

variable {W : Width}

/-! Initialize. -/

theorem progression_getElem? (x : Word W) {n i : Nat} (hi : i < n) :
    (progression x n)[i]? = some (x + BitVec.ofNat W.bits i * magicQ W) := by
  induction n generalizing x i with
  | zero => omega
  | succ n ih =>
    cases i with
    | zero => simp [progression]
    | succ i =>
      have hstep : x + magicQ W + BitVec.ofNat W.bits i * magicQ W = x + BitVec.ofNat W.bits (i + 1) * magicQ W := by
        rw [BitVec.ofNat_add, BitVec.add_mul, BitVec.one_mul, BitVec.add_assoc, BitVec.add_comm (magicQ W)]
      rw [progression, List.getElem?_cons_succ, ih _ (Nat.lt_of_succ_lt_succ hi), ← hstep]
      rfl

theorem initTable_getElem? (r : Nat) {i : Nat} (hi : i < tableSize r) :
    (initTable W r)[i]? = some (magicP W + BitVec.ofNat W.bits i * magicQ W) := progression_getElem? (magicP W) hi

theorem initTable_getD (r : Nat) {i : Nat} (hi : i < tableSize r) :
    (initTable W r).getD i 0 = magicP W + BitVec.ofNat W.bits i * magicQ W := by
  rw [List.getD_eq_getElem?_getD, initTable_getElem? r hi, Option.getD_some]

/-- Settles O17: entry i is P_W + i·Q_W, in Words and so modulo 2^W. -/
theorem initialTableIsProgression : Obligations.InitialTableIsProgression := by
  refine fun W r => ⟨initTable_length W r, rfl, fun i hi => ?_, fun i hi => ?_⟩
  · rw [initTable_getElem? r hi, initTable_getD r (Nat.lt_of_succ_lt hi), BitVec.ofNat_add, BitVec.add_mul,
      BitVec.one_mul, BitVec.add_assoc]
  · rw [initTable_getD r hi, BitVec.toNat_add, BitVec.toNat_mul, BitVec.toNat_ofNat, Nat.mod_mul_mod, Nat.add_mod_mod]

/-! Mix. -/

/-- Settles O18: the indices count the iterations, and an iteration changes no length. -/
theorem mixIndicesCycle : Obligations.MixIndicesCycle := fun _ s l n _ _ =>
  ⟨mixLoop_mixStart_i _ _ n s l, mixLoop_mixStart_j _ _ n s l, mixLoop_s_length _ _ n _, mixLoop_l_length _ _ n _⟩

/-- Settles O19: an iteration sets entry i of the table and entry j of the key words. -/
theorem mixIterationRewritesOneEntryOfEach : Obligations.MixIterationRewritesOneEntryOfEach := by
  refine fun W m hi hj => ⟨?_, ?_, mixStep_ma _ _ m, mixStep_mb _ _ m, fun k hk => ?_, fun k hk => ?_⟩
  · rw [mixStep_s, List.getElem?_set_self hi]
  · rw [mixStep_l, List.getElem?_set_self hj]
  · rw [mixStep_s, List.getElem?_set_ne hk.symm]
  · rw [mixStep_l, List.getElem?_set_ne hk.symm]

end Sys2Proof.Machine
end

section
/-! Pack's byte loop as little-endian numbers, and the empty key (spec/43_key_schedule.md R121 to R123, R129). -/

namespace Sys2Proof.Machine

variable {W : Width}

/-! The closed form. -/

theorem Width.bits_eq_eight_mul_bytes (W : Width) : W.bits = 8 * W.bytes := by cases W <;> rfl

theorem Width.bytes_pos (W : Width) : 0 < W.bytes := by cases W <;> decide

/-- `n` key bytes from byte `start` on, as a little-endian number; bytes beyond the key count 0. -/
def littleEndian (key : List Byte) (start n : Nat) : Nat :=
  ∑ m ∈ Finset.range n, (key.getD (start + m) 0).toNat * 2 ^ (8 * m)

@[simp] theorem littleEndian_zero (key : List Byte) (start : Nat) : littleEndian key start 0 = 0 := rfl

/-- One more byte, below the others. -/
theorem littleEndian_succ (key : List Byte) (start n : Nat) :
    littleEndian key start (n + 1) = (key.getD start 0).toNat + 2 ^ 8 * littleEndian key (start + 1) n := by
  rw [littleEndian, Finset.sum_range_succ', littleEndian, Finset.mul_sum, Nat.add_comm]
  congr 1
  · simp
  · refine Finset.sum_congr rfl fun m _ => ?_
    rw [show start + (m + 1) = start + 1 + m by omega, Nat.mul_succ, Nat.pow_add]
    ring

theorem littleEndian_lt (key : List Byte) (start n : Nat) : littleEndian key start n < 2 ^ (8 * n) := by
  induction n generalizing start with
  | zero => exact Nat.one_pos
  | succ n ih =>
    have hbyte : (key.getD start 0).toNat < 2 ^ 8 := BitVec.isLt _
    have hrest := ih (start + 1)
    rw [littleEndian_succ, Nat.mul_succ, Nat.pow_add]
    omega

/-- Byte i of the number is the key's byte i. -/
theorem littleEndian_byte (key : List Byte) (start : Nat) {i n : Nat} (hi : i < n) :
    littleEndian key start n / 2 ^ (8 * i) % 2 ^ 8 = (key.getD (start + i) 0).toNat := by
  induction i generalizing start n with
  | zero =>
    obtain ⟨n, rfl⟩ := Nat.exists_eq_add_of_lt hi
    rw [Nat.zero_add, littleEndian_succ]
    have hbyte : (key.getD start 0).toNat < 2 ^ 8 := BitVec.isLt _
    simp only [Nat.mul_zero, Nat.pow_zero, Nat.add_zero]
    omega
  | succ i ih =>
    obtain ⟨n, rfl⟩ := Nat.exists_eq_add_of_lt (Nat.lt_of_le_of_lt (Nat.zero_le _) hi)
    have hbyte : (key.getD start 0).toNat < 2 ^ 8 := BitVec.isLt _
    rw [Nat.zero_add, littleEndian_succ, Nat.mul_succ, Nat.add_comm (8 * i), Nat.pow_add, ← Nat.div_div_eq_div_mul,
      Nat.add_mul_div_left _ _ (by decide), Nat.div_eq_of_lt hbyte, Nat.zero_add, ih (start + 1) (by omega)]
    congr 2
    omega

theorem littleEndian_beyond {key : List Byte} {start : Nat} (hstart : key.length ≤ start) (n : Nat) :
    littleEndian key start n = 0 := by
  refine Finset.sum_eq_zero fun m _ => ?_
  rw [List.getD_eq_default _ _ (by omega)]
  exact Nat.zero_mul _

/-! The byte loop, from the last byte down. -/

/-- What word k holds once the byte loop is down to byte i: its key bytes from i on. -/
def packedFrom (W : Width) (key : List Byte) (i k : Nat) : Nat :=
  littleEndian key (max i (k * W.bytes)) ((k + 1) * W.bytes - max i (k * W.bytes))

/-- The loop starts with words of 0. -/
theorem packedFrom_of_le {key : List Byte} {i : Nat} (hi : key.length ≤ i) (k : Nat) : packedFrom W key i k = 0 :=
  littleEndian_beyond (hi.trans (Nat.le_max_left _ _)) _

/-- The loop ends with all u bytes of each word. -/
theorem packedFrom_zero (key : List Byte) (k : Nat) :
    packedFrom W key 0 k = littleEndian key (k * W.bytes) W.bytes := by
  rw [packedFrom, Nat.zero_max, Nat.succ_mul, Nat.add_sub_cancel_left]

/-- Byte i is of word i div u. -/
theorem mul_bytes_le_lt (W : Width) (i : Nat) :
    i / W.bytes * W.bytes ≤ i ∧ i < (i / W.bytes + 1) * W.bytes :=
  ⟨Nat.div_mul_le_self i W.bytes, Nat.lt_mul_of_div_lt (Nat.lt_succ_self _) (Width.bytes_pos W)⟩

/-- The loop's turn for byte i puts it below the bytes that word i div u holds, … -/
theorem packedFrom_div (key : List Byte) (i : Nat) :
    packedFrom W key i (i / W.bytes) = (key.getD i 0).toNat + 2 ^ 8 * packedFrom W key (i + 1) (i / W.bytes) := by
  obtain ⟨hlo, hhi⟩ := mul_bytes_le_lt W i
  rw [packedFrom, packedFrom, Nat.max_eq_left hlo, Nat.max_eq_left (hlo.trans (Nat.le_succ i)), ← littleEndian_succ]
  congr 1
  omega

/-- … whose top byte is still 0, … -/
theorem packedFrom_succ_lt (key : List Byte) (i : Nat) :
    packedFrom W key (i + 1) (i / W.bytes) < 2 ^ (W.bits - 8) := by
  obtain ⟨hlo, _⟩ := mul_bytes_le_lt W i
  rw [packedFrom, Nat.max_eq_left (hlo.trans (Nat.le_succ i))]
  refine (littleEndian_lt key _ _).trans_le (Nat.pow_le_pow_right (by decide) ?_)
  have hbits : W.bits = 8 * W.bytes := Width.bits_eq_eight_mul_bytes W
  have hend : (i / W.bytes + 1) * W.bytes = i / W.bytes * W.bytes + W.bytes := Nat.succ_mul _ _
  omega

/-- … and changes no other word. -/
theorem packedFrom_of_ne (key : List Byte) {i k : Nat} (hk : k ≠ i / W.bytes) :
    packedFrom W key i k = packedFrom W key (i + 1) k := by
  obtain ⟨hlo, hhi⟩ := mul_bytes_le_lt W i
  rcases Nat.lt_or_gt_of_ne hk with hlt | hgt
  · have hle : (k + 1) * W.bytes ≤ i := (Nat.mul_le_mul_right _ hlt).trans hlo
    rw [packedFrom, packedFrom, Nat.sub_eq_zero_of_le (hle.trans (Nat.le_max_left _ _)),
      Nat.sub_eq_zero_of_le ((hle.trans (Nat.le_succ i)).trans (Nat.le_max_left _ _)), littleEndian_zero,
      littleEndian_zero]
  · have hle : i + 1 ≤ k * W.bytes := hhi.trans_le (Nat.mul_le_mul_right _ hgt)
    rw [packedFrom, packedFrom, Nat.max_eq_right hle, Nat.max_eq_right ((Nat.le_succ i).trans hle)]

/-- A left rotation by a byte of a Word whose top byte is 0 is a multiplication. -/
theorem toNat_rotl_eight {x : Word W} (hx : x.toNat < 2 ^ (W.bits - 8)) : (rotl x 8).toNat = 2 ^ 8 * x.toNat := by
  have hW : 8 ≤ W.bits := by cases W <;> decide
  have hpow : 2 ^ W.bits = 2 ^ 8 * 2 ^ (W.bits - 8) := by rw [← Nat.pow_add, Nat.add_sub_cancel' hW]
  rcases hW.eq_or_lt with heq | hlt
  · have hzero : 2 ^ (W.bits - 8) = 1 := by rw [← heq, Nat.sub_self, Nat.pow_zero]
    rw [rotl_of_mod_eq_zero x (by rw [← heq])]
    omega
  · rw [toNat_rotl, Nat.mod_eq_of_lt hlt, if_neg (by decide), Nat.div_eq_of_lt hx, Nat.or_zero, Nat.mul_comm,
      Nat.mod_eq_of_lt (by omega)]

/-- One turn of the byte loop on its word. -/
theorem toNat_rotl_eight_add_fromU8 {x : Word W} (hx : x.toNat < 2 ^ (W.bits - 8)) (b : Byte) :
    (wrappingAdd (rotl x 8) (fromU8 b)).toNat = b.toNat + 2 ^ 8 * x.toNat := by
  have hW : 8 ≤ W.bits := by cases W <;> decide
  have hpow : 2 ^ W.bits = 2 ^ 8 * 2 ^ (W.bits - 8) := by rw [← Nat.pow_add, Nat.add_sub_cancel' hW]
  have hb : b.toNat < 2 ^ 8 := b.isLt
  rw [wrappingAdd_toNat, toNat_rotl_eight hx, fromU8, BitVec.toNat_setWidth_of_le hW, Nat.mod_eq_of_lt (by omega),
    Nat.add_comm]

/-- The byte loop, from words that hold the key bytes from n on (R122; the induction of R123). -/
theorem toNat_packBytes_getD (key : List Byte) (n : Nat) (l : List (Word W)) (hn : n ≤ l.length * W.bytes)
    (hl : ∀ k < l.length, (l.getD k 0).toNat = packedFrom W key n k) :
    ∀ k < l.length, ((packBytes key n l).getD k 0).toNat = packedFrom W key 0 k := by
  induction n generalizing l with
  | zero => exact hl
  | succ i ih =>
    intro k hk
    have hword : i / W.bytes < l.length := Nat.div_lt_of_lt_mul (by rw [Nat.mul_comm]; omega)
    rw [packBytes]
    refine ih _ (by rw [List.length_set]; omega) (fun j hj => ?_) k (by rwa [List.length_set])
    rw [List.length_set] at hj
    by_cases hji : j = i / W.bytes
    · subst hji
      have hx := hl _ hword
      rw [List.getD_eq_getElem?_getD, List.getElem?_set_self hword, Option.getD_some,
        toNat_rotl_eight_add_fromU8 (by rw [hx]; exact packedFrom_succ_lt key i), hx, packedFrom_div]
    · rw [List.getD_eq_getElem?_getD, List.getElem?_set_ne (Ne.symm hji), ← List.getD_eq_getElem?_getD, hl j hj,
        packedFrom_of_ne key hji]

/-- The words have room for the key (R121). -/
theorem le_keyWords_mul_bytes (W : Width) (b : Nat) : b ≤ keyWords W b * W.bytes := by
  cases W <;> simp only [keyWords, Width.bytes, Width.bits] <;> omega

/-- Pack's closed form (R123). -/
theorem toNat_pack_getD (key : List Byte) {k : Nat} (hk : k < keyWords W key.length) :
    ((pack W key).getD k 0).toNat = littleEndian key (k * W.bytes) W.bytes := by
  rw [← packedFrom_zero]
  refine toNat_packBytes_getD key key.length _ ?_ (fun j _ => ?_) k (by rwa [List.length_replicate])
  · rw [List.length_replicate]
    exact le_keyWords_mul_bytes W key.length
  · rw [packedFrom_of_le le_rfl]
    simp

/-- Settles O16: the byte loop's closed form, whose terms beyond the key are 0, and its byte i mod u. -/
theorem packIsLittleEndian : Obligations.PackIsLittleEndian := by
  refine fun W key => ⟨pack_length W key, fun k hk => ?_, fun i hi => ?_⟩
  · rw [pack_length] at hk
    rw [toNat_pack_getD key hk, littleEndian]
    refine Finset.sum_congr rfl fun m _ => ?_
    split
    · rfl
    · rw [List.getD_eq_default _ _ (by omega)]
      exact Nat.zero_mul _
  · have hword : i / W.bytes < keyWords W key.length :=
      Nat.div_lt_of_lt_mul (by rw [Nat.mul_comm]; exact hi.trans_le (le_keyWords_mul_bytes W key.length))
    refine BitVec.eq_of_toNat_eq ?_
    rw [BitVec.extractLsb'_toNat, toNat_pack_getD key hword, Nat.shiftRight_eq_div_pow,
      littleEndian_byte key _ (Nat.mod_lt i (Width.bytes_pos W)), Nat.div_add_mod']

/-! The empty key. -/

theorem keyWords_of_le_one (W : Width) {b : Nat} (hb : b ≤ 1) : keyWords W b = 1 := by
  cases W <;> simp only [keyWords, Width.bits] <;> omega

theorem pack_nil (W : Width) : pack W [] = [0] := by
  rw [pack, List.length_nil, keyWords_of_le_one W (Nat.zero_le 1)]
  rfl

/-- The byte 00 adds 0 to the one word, which is 0 (R129). -/
theorem pack_zero_byte (W : Width) : pack W [0] = [0] := by
  rw [pack, List.length_singleton, keyWords_of_le_one W le_rfl]
  cases W <;> rfl

/-- Two keys of one packed word each, and the same one, expand alike. -/
theorem expand_of_one_word {key : List Byte} (hlen : key.length ≤ 1) (hpack : pack W key = [0]) (r : Nat) :
    expand W key r = (mixLoop (2 * (r + 1)) 1 (3 * (2 * (r + 1))) (mixStart (initTable W r) [0])).s := by
  rw [expand, hpack, keyWords_of_le_one W hlen, tableSize, Nat.max_eq_left (by omega)]

/-- Settles O22: both keys pack to the one word 0, so one expansion serves both. -/
theorem emptyKeyIsValid : Obligations.EmptyKeyIsValid := fun W r =>
  have hempty := expand_of_one_word (key := []) (Nat.zero_le 1) (pack_nil W) r
  ⟨pack_nil W, keyWords_of_le_one W (Nat.zero_le 1), hempty, expand_length W [] r, pack_zero_byte W,
    (expand_of_one_word le_rfl (pack_zero_byte W) r).trans hempty.symm⟩

end Sys2Proof.Machine
end

section
/-! The host's turn, one lemma for each kind of line (spec/30_encoding.md R87). -/

namespace Sys2Proof.Machine

variable {W : Width}

theorem hostTurn_write {h : HostSide W} {addr : PortAddr} {data : PortData W}
    (hline : h.script[h.line]? = some (.write addr data)) (c : Chip W) (ts : List Turn) (d : Nat) :
    hostTurn ⟨W, c, h, ts, d⟩ = ⟨W, portWrite c addr data, h.goto (h.line + 1), ts, d⟩ := by
  rw [hostTurn, hline]
  rfl

theorem hostTurn_read {h : HostSide W} {addr : PortAddr} {name : Option HostName}
    (hline : h.script[h.line]? = some (.read addr name)) (c : Chip W) (ts : List Turn) (d : Nat) :
    hostTurn ⟨W, c, h, ts, d⟩ =
      ⟨W, c, (h.bind name (portRead c d addr)).goto (h.line + 1), ts, d + 1⟩ := by
  rw [hostTurn, hline]
  rfl

theorem hostTurn_branch {h : HostSide W} {name : HostName} {bit : Nat} {value : Bool} {target : Nat}
    (hline : h.script[h.line]? = some (.branch name bit value target)) (c : Chip W) (ts : List Turn) (d : Nat) :
    hostTurn ⟨W, c, h, ts, d⟩ =
      ⟨W, c, h.goto (if (h.value name).getLsbD bit = value then target else h.line + 1), ts, d⟩ := by
  rw [hostTurn, hline]
  rfl

theorem hostTurn_expect {h : HostSide W} {name : HostName} {value : ExpectValue W}
    (hline : h.script[h.line]? = some (.expect name value)) (c : Chip W) (ts : List Turn) (d : Nat) :
    hostTurn ⟨W, c, h, ts, d⟩ = ⟨W, c, h.check name value, ts, d⟩ := by
  rw [hostTurn, hline]
  rfl

/-- With no line left the host's turn passes (R182). -/
theorem hostTurn_of_script_over {h : HostSide W} (hline : h.script[h.line]? = none) (c : Chip W) (ts : List Turn)
    (d : Nat) : hostTurn ⟨W, c, h, ts, d⟩ = ⟨W, c, h, ts, d⟩ := by
  rw [hostTurn, hline]

/-- RD binds no other name than its own (R87). -/
theorem HostSide.value_bind_of_ne (h : HostSide W) {n other : HostName} (hne : other ≠ n) (v : PortData W) :
    (h.bind (some n) v).value other = h.value other := by
  simp only [HostSide.value, HostSide.bind, List.lookup_cons, beq_false_of_ne hne]

/-- Settles O38: each kind of line by its own lemma. -/
theorem hostTurnRunsOneLine : Obligations.HostTurnRunsOneLine := by
  intro W c h ts d
  simp only [step_host]
  refine ⟨fun addr data hline => ?_, fun addr name hline => ?_, fun addr hline => ?_,
    fun name bit value target hline => ?_, fun name expected hline => ?_, fun hline => ?_⟩
  · rw [hostTurn_write hline]
    rfl
  · exact ⟨_, congrArg _ (hostTurn_read hline c ts d), HostSide.value_bind h name _,
      fun other hne => HostSide.value_bind_of_ne h hne _, rfl, rfl, rfl⟩
  · rw [hostTurn_read hline]
    rfl
  · rw [hostTurn_branch hline]
    rfl
  · refine ⟨_, congrArg _ (hostTurn_expect hline c ts d), rfl, rfl, rfl, fun value hvalue => ?_⟩
    have hexpected : h.expected expected = value := by
      obtain rfl | ⟨other, rfl, rfl⟩ := hvalue <;> rfl
    rw [← hexpected]
    rfl
  · rw [hostTurn_of_script_over hline]

end Sys2Proof.Machine
end

section
/-! A pending command, whoever moves first: the engine completes it, the host cannot reach its operands, a reset abandons
it (spec/40_command.md R90 to R94; spec/70_reset_and_hazards.md R172, R176). -/

namespace Sys2Proof.Machine

variable {W : Width}

/-! The engine's step. -/

/-- At a busy block the engine's step is the pending command, with or without a turn for it (R91, R94). -/
theorem step_engine_of_busy {c : Chip W} {i : Instr} (h : HostSide W) (ts : List Turn) (d : Nat)
    (hbusy : c.status.busy = true) (hop : c.pendOp = opcode i) :
    step ⟨W, c, h, .engine :: ts, d⟩ = exec i ⟨W, c, h, ts, d⟩ :=
  engineTurn_busy h ts d hbusy ((decodeOpcode_eq_some_iff _ _).mpr hop)

theorem step_nil_of_pending {c : Chip W} {i : Instr} (h : HostSide W) (d : Nat)
    (hbusy : c.status.busy = true) (hop : c.pendOp = opcode i) :
    step ⟨W, c, h, [], d⟩ = exec i ⟨W, c, h, [], d⟩ :=
  (step_nil_of_busy hbusy h d).trans (engineTurn_busy h [] d hbusy ((decodeOpcode_eq_some_iff _ _).mpr hop))

theorem step_engine_completes {c : Chip W} {i : Instr} (h : HostSide W) (ts : List Turn) (d : Nat)
    (hbusy : c.status.busy = true) (hop : c.pendOp = opcode i) :
    step ⟨W, c, h, .engine :: ts, d⟩ = .next ⟨W, afterCommand i c d, h, ts, drawsAfter i d⟩ :=
  engineTurn_pending h ts d hbusy hop

theorem step_nil_completes {c : Chip W} {i : Instr} (h : HostSide W) (d : Nat)
    (hbusy : c.status.busy = true) (hop : c.pendOp = opcode i) :
    step ⟨W, c, h, [], d⟩ = .next ⟨W, afterCommand i c d, h, [], drawsAfter i d⟩ :=
  (step_nil_of_pending h d hbusy hop).trans (exec_eq_next i c h [] d)

theorem step_engine_of_idle {c : Chip W} (hidle : c.status.busy = false) (h : HostSide W) (ts : List Turn) (d : Nat) :
    step ⟨W, c, h, .engine :: ts, d⟩ = .next ⟨W, c, h, ts, d⟩ := engineTurn_idle h ts d hidle

/-- Settles O5: the word placed by withFetchWord is accepted as a CMD write's is, and the engine moves next. -/
theorem stepRunsPendingCommand : Obligations.StepRunsPendingCommand := by
  refine ⟨fun W c h ts d i hbusy hop => ⟨step_engine_of_busy h ts d hbusy hop, step_nil_of_pending h d hbusy hop⟩,
    fun W c h ts d hidle => step_engine_of_idle hidle h ts d, fun W c h ts d nbits w i hword => ?_⟩
  rw [State.withFetchWord, (decode_eq_ok_iff _ i).mp hword, acceptCommand_encode]
  cases ts with
  | nil => exact step_nil_of_pending h d rfl rfl
  | cons t ts => exact step_engine_of_busy h (t :: ts) d rfl rfl

/-! The host's turn at a busy block. -/

/-- A port write to a busy block reaches STATUS alone, and leaves BUSY (R47, R49). -/
theorem portWrite_of_busy_only_status {c : Chip W} (hbusy : c.status.busy = true) (addr : PortAddr) (data : PortData W) :
    ∃ st : Status, portWrite c addr data = { c with status := st } ∧ st.busy = true := by
  obtain ⟨code, h⟩ | ⟨_, h⟩ | ⟨hidle, _⟩ | ⟨hidle, _⟩ := portWrite_outcomes c addr data
  · exact ⟨_, h, hbusy⟩
  · exact ⟨_, h, hbusy⟩
  · exact absurd (hidle.symm.trans hbusy) Bool.false_ne_true
  · exact absurd (hidle.symm.trans hbusy) Bool.false_ne_true

theorem hostTurn_of_busy {c : Chip W} (hbusy : c.status.busy = true) (h : HostSide W) (ts : List Turn) (d : Nat) :
    ∃ (st : Status) (h' : HostSide W) (d' : Nat),
      hostTurn ⟨W, c, h, ts, d⟩ = ⟨W, { c with status := st }, h', ts, d'⟩ ∧ st.busy = true := by
  obtain ⟨c', h', d', hturn, _, rfl | ⟨addr, data, _, rfl⟩⟩ := hostTurn_cases c h ts d
  · exact ⟨c'.status, h', d', hturn, hbusy⟩
  · obtain ⟨st, hwrite, hst⟩ := portWrite_of_busy_only_status hbusy addr data
    exact ⟨st, h', d', by rw [hturn, hwrite], hst⟩

/-- Settles O44: by induction on the number of host turns, each of which keeps all but STATUS, and BUSY. -/
theorem operandsStableWhilePending : Obligations.OperandsStableWhilePending := by
  intro W c h ts d n hbusy
  induction n generalizing c h d with
  | zero => exact ⟨c.status, h, d, rfl, hbusy⟩
  | succ n ih =>
    obtain ⟨st, h', d', hturn, hst⟩ := hostTurn_of_busy hbusy h (List.replicate n .host ++ ts) d
    rw [List.replicate_succ, List.cons_append, run_succ n (step_host c h _ d), hturn]
    exact ih { c with status := st } h' d' hst

/-! Completion. -/

/-- Settles O45: by induction on the turns. The host keeps the command pending, the engine or a reset ends it, and with no
turn left the engine moves. -/
theorem pendingCommandCompletes : Obligations.PendingCommandCompletes := by
  intro W c h ts d hlegal hbusy
  obtain ⟨i, hop⟩ := exists_pending_of_legal hlegal hbusy
  clear hlegal
  induction ts generalizing c h d with
  | nil =>
    exact ⟨1, le_rfl, afterCommand i c d, h, [], drawsAfter i d, run_succ 0 (step_nil_completes h d hbusy hop), rfl,
      fun _ => rfl⟩
  | cons turn ts ih =>
    cases turn with
    | host =>
      obtain ⟨st, h₁, d₁, hturn, hst⟩ := hostTurn_of_busy hbusy h ts d
      obtain ⟨k, hk, c', h', ts', d', hrun, hidle, hdone⟩ := ih { c with status := st } h₁ d₁ hst hop
      refine ⟨k + 1, Nat.succ_le_succ hk, c', h', ts', d', ?_, hidle,
        fun hreset => hdone (List.not_mem_of_not_mem_cons hreset)⟩
      rw [run_succ k (step_host c h ts d), hturn, hrun]
    | engine =>
      exact ⟨1, Nat.le_add_left 1 _, afterCommand i c d, h, ts, drawsAfter i d,
        run_succ 0 (step_engine_completes h ts d hbusy hop), rfl, fun _ => rfl⟩
    | reset =>
      exact ⟨1, Nat.le_add_left 1 _, _, _, _, _, run_succ 0 (step_reset c h ts d), rfl,
        fun hreset => absurd List.mem_cons_self hreset⟩

/-- Settles O46: the host's write finds the block busy, or as the command left it. -/
theorem unwaitedWriteHasTwoOutcomes : Obligations.UnwaitedWriteHasTwoOutcomes := by
  intro W c h d i addr data hbusy hop hline hguarded
  refine ⟨?_, afterCommand i c d, drawsAfter i d, exec_eq_next i c h [.host] d, rfl, ?_⟩
  · have hengine := step_engine_completes (c := raiseError .busyWrite c) (h.goto (h.line + 1)) [] d hbusy hop
    rw [run_succ 1 (step_host c h [.engine] d), hostTurn_write hline, portWrite_of_guarded_of_busy hbusy data hguarded,
      run_succ 0 hengine]
    exact (exec_eq_next i (raiseError .busyWrite c) (h.goto (h.line + 1)) [] d).symm
  · rw [run_succ 1 (step_engine_completes h [.host] d hbusy hop), run_succ 0 (step_host _ h [] _), hostTurn_write hline]
    rfl

/-- Settles O7: the two steps of the accepted NOP are the host's write and the engine's completion. -/
theorem nopOnlyCompletes : Obligations.NopOnlyCompletes := by
  refine fun W c h ts d => ⟨exec_nop c h ts d, fun hidle hline => ?_⟩
  have hword : (0x00000000 : PortData W).setWidth 32 = encode .nop := by cases W <;> rfl
  have hengine := step_engine_completes (c := withPending .nop c) (i := .nop) (h.goto (h.line + 1)) ts d rfl rfl
  rw [run_succ 1 (step_host c h (.engine :: ts) d), hostTurn_write hline, portWrite_encode_of_idle hidle hword,
    run_succ 0 hengine]
  rfl

/-! Idle blocks. -/

/-- Engine turns at an idle block do nothing, however many (R91). -/
theorem run_engine_of_idle {c : Chip W} (hidle : c.status.busy = false) (h : HostSide W) (ts : List Turn) (d n : Nat) :
    run n ⟨W, c, h, List.replicate n .engine ++ ts, d⟩ = .next ⟨W, c, h, ts, d⟩ := by
  induction n with
  | zero => rfl
  | succ n ih => rw [List.replicate_succ, List.cons_append, run_succ n (step_engine_of_idle hidle h _ d), ih]

/-- Settles O48: the block a reset leaves is idle, and the engine does nothing at an idle block. -/
theorem resetAbandonsPendingCommand : Obligations.ResetAbandonsPendingCommand := fun W c h ts d n =>
  ⟨.atReset W d, d + 1, step_reset c h _ d, rfl, rfl, run_engine_of_idle rfl h ts (d + 1) n⟩

end Sys2Proof.Machine
end

section
/-! The end of a run: its first state with the script over and BUSY = 0 (spec/70_reset_and_hazards.md R182). -/

namespace Sys2Proof.Machine

variable {W : Width}

/-! Runs by their first step. -/

theorem run_succ_eq_next_iff (n : Nat) (s t : State) :
    run (n + 1) s = .next t ↔ ∃ u, step s = .next u ∧ run n u = .next t := by
  cases hs : step s with
  | next u => simp [run_succ n hs]
  | fault r =>
    have hstop : core.step s = .fault r := hs
    simp [run, Host.Core.run, hstop]
  | refused r =>
    have hstop : core.step s = .refused r := hs
    simp [run, Host.Core.run, hstop]

/-- `k` steps lead from s to t, and no state before t on the way has ended. -/
def ReachesUnended (k : Nat) (s t : State) : Prop :=
  run k s = .next t ∧ ∀ j < k, ∃ u, run j s = .next u ∧ ¬ u.Ended

theorem reachesUnended_zero_iff (s t : State) : ReachesUnended 0 s t ↔ s = t := by
  simp [ReachesUnended]

theorem reachesUnended_succ_iff (k : Nat) (s t : State) :
    ReachesUnended (k + 1) s t ↔ ¬ s.Ended ∧ ∃ u, step s = .next u ∧ ReachesUnended k u t := by
  constructor
  · rintro ⟨hrun, hbefore⟩
    obtain ⟨u, hstep, hrest⟩ := (run_succ_eq_next_iff k s t).mp hrun
    obtain ⟨s', hs', hended⟩ := hbefore 0 (Nat.succ_pos k)
    cases hs'
    refine ⟨hended, u, hstep, hrest, fun j hj => ?_⟩
    obtain ⟨v, hv, hvended⟩ := hbefore (j + 1) (Nat.succ_lt_succ hj)
    exact ⟨v, by rwa [run_succ j hstep] at hv, hvended⟩
  · rintro ⟨hended, u, hstep, hrest, hbefore⟩
    refine ⟨(run_succ k hstep).trans hrest, fun j hj => ?_⟩
    cases j with
    | zero => exact ⟨s, rfl, hended⟩
    | succ j =>
      rw [run_succ j hstep]
      exact hbefore j (Nat.lt_of_succ_lt_succ hj)

/-- From a state that has ended nothing else is reached. -/
theorem reachesUnended_of_ended {s : State} (hs : s.Ended) {k : Nat} {t : State} (h : ReachesUnended k s t) : s = t := by
  cases k with
  | zero => exact (reachesUnended_zero_iff s t).mp h
  | succ k => exact absurd hs ((reachesUnended_succ_iff k s t).mp h).1

/-- A state that has not ended is left by a step, unless it stops the machine. -/
theorem runToEnd_succ_eq_some_iff {s : State} (hs : ¬ s.Ended) (n : Nat) (t : State) :
    runToEnd (n + 1) s = some t ↔ ∃ u, step s = .next u ∧ runToEnd n u = some t := by
  cases hstep : step s with
  | next u => simp [runToEnd_succ n hs hstep]
  | fault r => simp [runToEnd, hs, hstep]
  | refused r => simp [runToEnd, hs, hstep]

theorem runToEnd_zero_of_not_ended {s : State} (hs : ¬ s.Ended) : runToEnd 0 s = none := if_neg hs

/-- From a state that has ended, that state alone is reached. -/
theorem runToEnd_eq_some_iff_of_ended {s : State} (hs : s.Ended) (n : Nat) (t : State) :
    runToEnd n s = some t ↔ t.Ended ∧ ∃ k ≤ n, ReachesUnended k s t := by
  rw [runToEnd_ended n hs, Option.some_inj]
  constructor
  · rintro rfl
    exact ⟨hs, 0, Nat.zero_le n, (reachesUnended_zero_iff s s).mpr rfl⟩
  · rintro ⟨_, k, _, hk⟩
    exact reachesUnended_of_ended hs hk

/-- `runToEnd` gives the first state that has ended, and no other (R182). -/
theorem runToEnd_eq_some_iff (n : Nat) (s t : State) :
    runToEnd n s = some t ↔ t.Ended ∧ ∃ k ≤ n, ReachesUnended k s t := by
  induction n generalizing s with
  | zero =>
    by_cases hs : s.Ended
    · exact runToEnd_eq_some_iff_of_ended hs 0 t
    · rw [runToEnd_zero_of_not_ended hs]
      constructor
      · rintro ⟨⟩
      · rintro ⟨ht, k, hk, hreach⟩
        obtain rfl : k = 0 := Nat.le_zero.mp hk
        exact absurd ((reachesUnended_zero_iff s t).mp hreach ▸ ht) hs
  | succ n ih =>
    by_cases hs : s.Ended
    · exact runToEnd_eq_some_iff_of_ended hs (n + 1) t
    · rw [runToEnd_succ_eq_some_iff hs]
      constructor
      · rintro ⟨u, hstep, hrun⟩
        obtain ⟨ht, k, hk, hreach⟩ := (ih u).mp hrun
        exact ⟨ht, k + 1, Nat.succ_le_succ hk, (reachesUnended_succ_iff k s t).mpr ⟨hs, u, hstep, hreach⟩⟩
      · rintro ⟨ht, k, hk, hreach⟩
        cases k with
        | zero => exact absurd ((reachesUnended_zero_iff s t).mp hreach ▸ ht) hs
        | succ k =>
          obtain ⟨_, u, hstep, hrest⟩ := (reachesUnended_succ_iff k s t).mp hreach
          exact ⟨u, hstep, (ih u).mpr ⟨ht, k, Nat.le_of_succ_le_succ hk, hrest⟩⟩

/-! After the end. -/

/-- A host whose script is over has no next line. -/
theorem no_line_of_script_over {h : HostSide W} (hover : h.script.length ≤ h.line) : h.script[h.line]? = none :=
  List.getElem?_eq_none hover

/-- A step of the host or the engine from an ended state takes its turn, if there is one, and does no more. -/
theorem step_of_ended {s : State} (hs : s.Ended) (hreset : .reset ∉ s.turns) :
    step s = .next { s with turns := s.turns.tail } := by
  obtain ⟨W, c, h, ts, d⟩ := s
  obtain ⟨hover, hidle⟩ := hs
  have hturn : ∀ ts, hostTurn ⟨W, c, h, ts, d⟩ = ⟨W, c, h, ts, d⟩ := fun ts =>
    hostTurn_of_script_over (no_line_of_script_over hover) c ts d
  match ts with
  | [] => rw [step_nil_of_idle hidle, hturn, List.tail_nil]
  | .host :: ts => rw [step_host, hturn, List.tail_cons]
  | .engine :: ts => rw [step_engine_of_idle hidle, List.tail_cons]
  | .reset :: ts => exact absurd List.mem_cons_self hreset

/-- Settles O52: each step takes one turn from the list, or finds it empty. -/
theorem endedRunStays : Obligations.EndedRunStays := by
  intro s n hs hreset
  induction n generalizing s with
  | zero => rfl
  | succ n ih =>
    rw [run_succ n (step_of_ended hs hreset),
      ih { s with turns := s.turns.tail } hs (fun hmem => hreset (List.mem_of_mem_tail hmem)), List.drop_tail]

/-! A script of one bare command. -/

theorem setWidth_setWidth_encode (W : Width) (i : Instr) :
    ((encode i).setWidth W.portBits).setWidth 32 = encode i :=
  BitVec.setWidth_setWidth_of_le _ (Width.le_portBits W)

theorem assemble_command (i : Instr) :
    assemble [(Stmt.command i : Stmt W)] = [.write 0x001 ((encode i).setWidth W.portBits)] := rfl

theorem not_ended_of_busy {c : Chip W} (hbusy : c.status.busy = true) (h : HostSide W) (ts : List Turn) (d : Nat) :
    ¬ State.Ended ⟨W, c, h, ts, d⟩ := fun hended => Bool.false_ne_true (hended.2.symm.trans hbusy)

/-- With the script over and a command pending, a run ends at that command's completion, once the host has let its turns
pass (R182). -/
theorem runToEnd_of_pending {c : Chip W} {i : Instr} {h : HostSide W} (hbusy : c.status.busy = true)
    (hop : c.pendOp = opcode i) (hover : h.script.length ≤ h.line) (ts : List Turn) (d n : Nat) :
    runToEnd (n + 1) ⟨W, c, h, List.replicate n .host ++ .engine :: ts, d⟩ =
      some ⟨W, afterCommand i c d, h, ts, drawsAfter i d⟩ := by
  induction n with
  | zero =>
    rw [List.replicate_zero, List.nil_append,
      runToEnd_succ 0 (not_ended_of_busy hbusy h _ d) (step_engine_completes h ts d hbusy hop)]
    exact runToEnd_ended 0 ⟨hover, rfl⟩
  | succ n ih =>
    rw [List.replicate_succ, List.cons_append,
      runToEnd_succ (n + 1) (not_ended_of_busy hbusy h _ d) (step_host c h _ d),
      hostTurn_of_script_over (no_line_of_script_over hover), ih]

/-- The one line is accepted, and nothing is left but to complete it. -/
theorem runToEnd_command {c : Chip W} {h : HostSide W} {i : Instr} (hidle : c.status.busy = false)
    (hscript : h.script = assemble [Stmt.command i]) (hstart : h.line = 0) (ts : List Turn) (d n : Nat) :
    runToEnd (n + 2) ⟨W, c, h, .host :: (List.replicate n .host ++ .engine :: ts), d⟩ =
      some ⟨W, afterCommand i (withPending i c) d, h.goto 1, ts, drawsAfter i d⟩ := by
  have hlen : h.script.length = 1 := by rw [hscript, assemble_command, List.length_singleton]
  have hline : h.script[h.line]? = some (.write 0x001 ((encode i).setWidth W.portBits)) := by
    rw [hscript, assemble_command, hstart, List.getElem?_cons_zero]
  have hunended : ¬ State.Ended ⟨W, c, h, .host :: (List.replicate n .host ++ .engine :: ts), d⟩ := by
    rintro ⟨hover, -⟩
    rw [hlen, hstart] at hover
    omega
  rw [runToEnd_succ (n + 1) hunended (step_host c h _ d), hostTurn_write hline,
    portWrite_encode_of_idle hidle (setWidth_setWidth_encode W i), hstart]
  exact runToEnd_of_pending rfl rfl hlen.le ts d n

/-- Settles O53: `runToEnd`'s characterisation, and the run of one bare command as a start of it. -/
theorem runEndsAtFirstPoint : Obligations.RunEndsAtFirstPoint :=
  ⟨fun s t n => runToEnd_eq_some_iff n s t, fun _ _ _ ts d n i hidle =>
    ⟨_, _, _, runToEnd_command hidle rfl rfl ts d n, exec_eq_next i (withPending i _) _ ts d⟩⟩

end Sys2Proof.Machine
end

section
/-! The pseudo-instructions LOADKEY and RUN, run with no turn left to take (spec/30_encoding.md R88). -/

namespace Sys2Proof.Machine

variable {W : Width}

/-! LOADKEY. -/

/-- The 255 key bytes with the low bytes of `values` written from entry k on, as far as there are entries. -/
def setKeyBytes (key : Vector Byte 255) : Nat → List (PortData W) → Vector Byte 255
  | _, [] => key
  | k, value :: values => setKeyBytes (key.setIfInBounds k (value.setWidth 8)) (k + 1) values

theorem setKeyBytes_cons (key : Vector Byte 255) {k : Nat} (hk : k < 255) (value : PortData W)
    (values : List (PortData W)) :
    setKeyBytes key k (value :: values) = setKeyBytes (key.set k (value.setWidth 8) hk) (k + 1) values := by
  have hset : key.setIfInBounds k (value.setWidth 8) = key.set k (value.setWidth 8) hk :=
    Vector.ext fun j hj => (Vector.getElem_setIfInBounds hj).trans (Vector.getElem_set hk hj).symm
  rw [setKeyBytes, hset]

theorem setKeyBytes_getElem_of_lt (key : Vector Byte 255) {k j : Nat} (values : List (PortData W)) (hj : j < 255)
    (hlt : j < k) : (setKeyBytes key k values)[j] = key[j] := by
  induction values generalizing key k with
  | nil => rfl
  | cons value values ih =>
    rw [setKeyBytes, ih _ (Nat.lt_succ_of_lt hlt), Vector.getElem_setIfInBounds_ne hj hlt.ne']

theorem setKeyBytes_getElem_of_le (key : Vector Byte 255) {k j : Nat} (values : List (PortData W)) (hj : j < 255)
    (hle : k + values.length ≤ j) : (setKeyBytes key k values)[j] = key[j] := by
  induction values generalizing key k with
  | nil => rfl
  | cons value values ih =>
    rw [List.length_cons] at hle
    rw [setKeyBytes, ih _ (by omega), Vector.getElem_setIfInBounds_ne hj (by omega)]

theorem setKeyBytes_getElem_add (key : Vector Byte 255) {k i : Nat} (values : List (PortData W))
    (hi : i < values.length) (hj : k + i < 255) : (setKeyBytes key k values)[k + i] = values[i].setWidth 8 := by
  induction values generalizing key k i with
  | nil => cases hi
  | cons value values ih =>
    cases i with
    | zero =>
      simp only [setKeyBytes, Nat.add_zero, List.getElem_cons_zero]
      rw [setKeyBytes_getElem_of_lt _ _ (by omega) (Nat.lt_succ_self k), Vector.getElem_setIfInBounds_self]
    | succ i =>
      have hlt : i < values.length := Nat.lt_of_succ_lt_succ hi
      have hrest := ih (key.setIfInBounds k (value.setWidth 8)) (k := k + 1) hlt (by omega)
      simp only [setKeyBytes, List.getElem_cons_succ, ← hrest]
      congr 1
      omega

theorem emitKeyBytes_cons {k : Nat} (hk : k < 255) (value : PortData W) (values : List (PortData W)) :
    emitKeyBytes k (value :: values) = .write (BitVec.ofNat 10 (0x100 + k)) value :: emitKeyBytes (k + 1) values := by
  rw [emitKeyBytes, emitWrite, Target.addr_key hk, List.singleton_append]

theorem emitKeyBytes_length {k : Nat} (values : List (PortData W)) (hk : k + values.length ≤ 255) :
    (emitKeyBytes k values).length = values.length := by
  induction values generalizing k with
  | nil => rfl
  | cons value values ih =>
    rw [List.length_cons] at hk
    rw [emitKeyBytes_cons (by omega), List.length_cons, ih (by omega), List.length_cons]

theorem assemble_loadKey {values : List (PortData W)} (hlen : values.length ≤ 255) :
    assemble [Stmt.loadKey values] = .write 0x004 (BitVec.ofNat W.portBits values.length) :: emitKeyBytes 0 values := by
  rw [assemble_singleton, emit, if_pos hlen]
  rfl

/-- With no turn left, the next line of a host at an idle block is run, and if it is a write, made. -/
theorem step_write_of_idle {c : Chip W} {h : HostSide W} {addr : PortAddr} {data : PortData W}
    (hidle : c.status.busy = false) (hline : h.script[h.line]? = some (.write addr data)) (d : Nat) :
    step ⟨W, c, h, [], d⟩ = .next ⟨W, portWrite c addr data, h.goto (h.line + 1), [], d⟩ := by
  rw [step_nil_of_idle hidle, hostTurn_write hline]

/-- The lines from the next on, taken apart. -/
theorem next_line_of_drop {h : HostSide W} {line : HostLine W} {rest : List (HostLine W)}
    (hdrop : h.script.drop h.line = line :: rest) :
    h.script[h.line]? = some line ∧ (h.goto (h.line + 1)).script.drop (h.goto (h.line + 1)).line = rest := by
  constructor
  · rw [← List.head?_drop, hdrop, List.head?_cons]
  · rw [HostSide.goto_script, HostSide.goto_line, ← List.tail_drop, hdrop, List.tail_cons]

/-- The writes of a key's bytes, by induction on the bytes still to be written. -/
theorem run_emitKeyBytes (values : List (PortData W)) {c : Chip W} {h : HostSide W} {k : Nat}
    (hidle : c.status.busy = false) (hk : k + values.length ≤ 255)
    (hdrop : h.script.drop h.line = emitKeyBytes k values) (d : Nat) :
    run values.length ⟨W, c, h, [], d⟩ =
      .next ⟨W, { c with key := setKeyBytes c.key k values }, h.goto (h.line + values.length), [], d⟩ := by
  induction values generalizing c h k with
  | nil => rfl
  | cons value values ih =>
    rw [List.length_cons] at hk
    have hlt : k < 255 := by omega
    rw [emitKeyBytes_cons hlt] at hdrop
    obtain ⟨hline, hrest⟩ := next_line_of_drop hdrop
    have hrun := ih (c := { c with key := c.key.set k (value.setWidth 8) hlt }) hidle (by omega) hrest
    rw [List.length_cons, run_succ _ (step_write_of_idle hidle hline d), portWrite_key_of_idle hidle value hlt, hrun,
      setKeyBytes_cons _ hlt, HostSide.goto_line, Nat.add_assoc, Nat.add_comm 1]
    rfl

/-- KEYLEN keeps the length of a list of at most 255 numbers (R50, R88). -/
theorem toNat_keylen_of_length {n : Nat} (hn : n ≤ 255) : ((BitVec.ofNat W.portBits n).setWidth 8).toNat = n := by
  have hbyte : n < 2 ^ 8 := Nat.lt_succ_of_le hn
  have hport : n < 2 ^ W.portBits :=
    hbyte.trans_le (Nat.pow_le_pow_right (by decide) (le_trans (by decide) (Width.le_portBits W)))
  rw [BitVec.toNat_setWidth, BitVec.toNat_ofNat, Nat.mod_eq_of_lt hport, Nat.mod_eq_of_lt hbyte]

/-- The block after LOADKEY has the numbers' low bytes as its key (R30, R88). -/
theorem isKey_setKeyBytes {c : Chip W} {values : List (PortData W)} (hlen : c.keylen.toNat = values.length)
    {key : Vector Byte 255} (hkey : c.key = setKeyBytes key 0 values) : Claims.IsKey c (values.map (·.setWidth 8)) := by
  refine ⟨by rw [List.length_map, hlen], fun i hi hi255 => ?_⟩
  rw [List.length_map] at hi
  have hbyte := setKeyBytes_getElem_add key (k := 0) values hi (by omega)
  simp only [Nat.zero_add] at hbyte
  simp only [List.getElem_map, hkey, hbyte]

/-- Settles O55: the write of KEYLEN, then one write for each number. -/
theorem loadKeySetsTheKey : Obligations.LoadKeySetsTheKey := by
  intro W c h d values hidle hlen hscript hstart
  rw [assemble_loadKey hlen] at hscript
  have hdrop : h.script.drop h.line = .write 0x004 (BitVec.ofNat W.portBits values.length) :: emitKeyBytes 0 values := by
    rw [hscript, hstart, List.drop_zero]
  obtain ⟨hline, hrest⟩ := next_line_of_drop hdrop
  have hkeylen : portWrite c 0x004 (BitVec.ofNat W.portBits values.length) =
      { c with keylen := (BitVec.ofNat W.portBits values.length).setWidth 8 } :=
    portWrite_of_idle hidle _ rfl (by decide)
  have hkeys := run_emitKeyBytes values
    (c := { c with keylen := (BitVec.ofNat W.portBits values.length).setWidth 8 }) hidle (by omega) hrest d
  refine ⟨{ c with keylen := (BitVec.ofNat W.portBits values.length).setWidth 8, key := setKeyBytes c.key 0 values },
    ?_, ?_, isKey_setKeyBytes (key := c.key) (toNat_keylen_of_length hlen) rfl,
    fun k hk hle => setKeyBytes_getElem_of_le c.key values hk (by omega), rfl⟩
  · rw [run_succ _ (step_write_of_idle hidle hline d), hkeylen, hkeys, hstart, HostSide.goto_line, Nat.zero_add,
      Nat.add_comm 1]
    rfl
  · rw [hscript, List.length_cons, emitKeyBytes_length values (by omega)]

/-! RUN. -/

theorem assemble_run (i : Instr) :
    assemble [(Stmt.run i : Stmt W)] =
      [.write 0x001 ((encode i).setWidth W.portBits), .read 0x002 (some waitName), .branch waitName 0 true 1] := rfl

/-- Bit 0 of STATUS is BUSY (R23). -/
theorem Status.word_getLsbD_zero (st : Status) : st.word.getLsbD 0 = st.busy := by
  simp only [Status.word, BitVec.getLsbD_append, BitVec.getLsbD_ofBool]
  rfl

theorem portRead_status_getLsbD_zero (c : Chip W) (d : Nat) : (portRead c d 0x002).getLsbD 0 = c.status.busy := by
  have hport : 0 < W.portBits := Nat.lt_of_lt_of_le (by decide) (Width.le_portBits W)
  rw [portRead_status, BitVec.getLsbD_setWidth, decide_eq_true hport, Bool.true_and, Status.word_getLsbD_zero]

/-- WAIT's two lines at an idle block: STATUS is read, and the branch back not taken (R88). -/
theorem run_wait_of_idle {c : Chip W} {h : HostSide W} {target : Nat} (hidle : c.status.busy = false)
    (hread : h.script[h.line]? = some (.read 0x002 (some waitName)))
    (hbranch : h.script[h.line + 1]? = some (.branch waitName 0 true target)) (d : Nat) :
    run 2 ⟨W, c, h, [], d⟩ =
      .next ⟨W, c, (h.bind (some waitName) (portRead c d 0x002)).goto (h.line + 2), [], d + 1⟩ := by
  have hline : ((h.bind (some waitName) (portRead c d 0x002)).goto (h.line + 1)).script[h.line + 1]? =
      some (.branch waitName 0 true target) := hbranch
  rw [run_succ 1 (step_nil_of_idle hidle h d), hostTurn_read hread, run_succ 0 (step_nil_of_idle hidle _ _),
    hostTurn_branch hline, HostSide.value_goto, HostSide.value_bind, portRead_status_getLsbD_zero, hidle]
  rfl

/-- Settles O56: the write is accepted, the engine moves as no turn is left, and WAIT finds the block idle. -/
theorem runScriptCompletesTheCommand : Obligations.RunScriptCompletesTheCommand := by
  intro W c h d i hidle hscript hstart
  rw [assemble_run] at hscript
  have hlen : h.script.length = 3 := by
    rw [hscript]
    rfl
  have hwrite : h.script[h.line]? = some (.write 0x001 ((encode i).setWidth W.portBits)) := by
    rw [hscript, hstart]
    rfl
  have hread : h.script[1]? = some (.read 0x002 (some waitName)) := by
    rw [hscript]
    rfl
  have hbranch : h.script[2]? = some (.branch waitName 0 true 1) := by
    rw [hscript]
    rfl
  have hengine := step_nil_completes (c := withPending i c) (i := i) (h.goto 1) d rfl rfl
  have hwait := run_wait_of_idle (c := afterCommand i (withPending i c) d) (h := h.goto 1) rfl hread hbranch
    (drawsAfter i d)
  have hfirst : run 4 ⟨W, c, h, [], d⟩ =
      run 2 ⟨W, afterCommand i (withPending i c) d, h.goto 1, [], drawsAfter i d⟩ := by
    rw [run_succ 3 (step_write_of_idle hidle hwrite d), portWrite_encode_of_idle hidle (setWidth_setWidth_encode W i),
      hstart, run_succ 2 hengine]
  exact ⟨_, _, _, exec_eq_next i (withPending i c) (h.goto 1) [] d, hfirst.trans hwait, rfl, hlen, rfl, rfl, hlen.le, rfl⟩

end Sys2Proof.Machine
end
